-- ==== Sys2Proof/Word.lean ====
section
/-! DEFINITION. The bit-vector types of the machine: every register value is an unsigned integer of its register's
width and nothing is signed (00_scope.md R11). -/

namespace Sys2Proof

/-- An 8-bit value: a general register, a timer, a memory byte (10_state.md R18, R30; 20_memory.md R43). -/
abbrev Byte := BitVec 8

/-- A 16-bit value: the instruction word, `I`, `PC`, a stack slot (10_state.md R23, R25, R28; 30_encoding.md R58). -/
abbrev Word := BitVec 16

/-- A 4-bit field of an instruction word (00_scope.md R10). -/
abbrev Nibble := BitVec 4

/-- The 12-bit immediate address `nnn` (00_scope.md R13). -/
abbrev Addr12 := BitVec 12

/-- The number of a general register, 0..15 (10_state.md R18). -/
abbrev Reg := BitVec 4

/-- The index of a logical key, 0..15 (10_state.md R39). -/
abbrev Key := BitVec 4

/-- VF, the flag register (10_state.md R19). -/
abbrev Reg.flag : Reg := 0xF#4

end Sys2Proof
end

