-- ==== Sys2Proof/WellFormed.lean ====
section
/-! DEFINITION. Which terms of `Instr` the decoder can produce. The operand types already bound every field, so one
check is left: `SYS nnn` stands for the words of the 0-group other than 00E0 and 00EE (30_encoding.md R65). -/

namespace Sys2Proof

/-- The one check: no `SYS` at the address fields of `CLS` (00E0) and `RET` (00EE), whose rows come first
(30_encoding.md R62, R65). -/
abbrev Instr.WellFormed : Instr → Prop
  | .sys nnn => nnn ≠ 0x0E0#12 ∧ nnn ≠ 0x0EE#12
  | _ => True

end Sys2Proof
end

