-- ==== Sys2Proof/Decode.lean ====
section
/-! DEFINITION. The decode stage, a pure total function of the 16-bit word (30_encoding.md R62), and after it the
encoder, written from the same formats (R61). Every bit pattern is the spec's; the spec itself marks them as general
knowledge (92_eei_decisions.md D21). PRESUMED, unsafe: log entry 10. -/

namespace Sys2Proof

/-! ### Fields (30_encoding.md R59) -/

/-- The major opcode, w[15:12]. -/
def opField (w : Word) : Nibble := w.extractLsb' 12 4
/-- The first named register, w[11:8]. -/
def xField (w : Word) : Reg := w.extractLsb' 8 4
/-- The second named register, w[7:4]. -/
def yField (w : Word) : Reg := w.extractLsb' 4 4
/-- The 4-bit immediate and the selector sub4, w[3:0]. -/
def nField (w : Word) : Nibble := w.extractLsb' 0 4
/-- The 8-bit immediate and the selector sub8, w[7:0]. -/
def kkField (w : Word) : Byte := w.extractLsb' 0 8
/-- The 12-bit address, w[11:0]. -/
def nnnField (w : Word) : Addr12 := w.extractLsb' 0 12

/-! ### Decode (30_encoding.md R62, R64, R65) -/

/-- Why a decoder answers no instruction. -/
inductive DecodeError where
  /-- The word matches no pattern of 30_encoding.md R62 (R64). -/
  | illegal (w : Word)
  /-- Fewer than the two bytes of an instruction (R58); only the decoder of a byte list answers it. -/
  | truncated (bytes : Nat)
deriving DecidableEq, Repr

/-- The 0-group: 00E0 and 00EE come before SYS (R62, R65). -/
def decode0 (w : Word) : Instr :=
  if w = 0x00E0#16 then .cls
  else if w = 0x00EE#16 then .ret
  else .sys (nnnField w)

/-- The 8-group, selected by w[3:0]. -/
def decode8 (w : Word) : Except DecodeError Instr :=
  let x := xField w
  let y := yField w
  match nField w with
  | 0x0#4 => .ok (.ldReg x y)
  | 0x1#4 => .ok (.orReg x y)
  | 0x2#4 => .ok (.andReg x y)
  | 0x3#4 => .ok (.xorReg x y)
  | 0x4#4 => .ok (.addReg x y)
  | 0x5#4 => .ok (.sub x y)
  | 0x6#4 => .ok (.shr x y)
  | 0x7#4 => .ok (.subn x y)
  | 0xE#4 => .ok (.shl x y)
  | _ => .error (.illegal w)

/-- The E-group, selected by w[7:0]. -/
def decodeE (w : Word) : Except DecodeError Instr :=
  match kkField w with
  | 0x9E#8 => .ok (.skp (xField w))
  | 0xA1#8 => .ok (.sknp (xField w))
  | _ => .error (.illegal w)

/-- The F-group, selected by w[7:0]. -/
def decodeF (w : Word) : Except DecodeError Instr :=
  let x := xField w
  match kkField w with
  | 0x07#8 => .ok (.ldVxDT x)
  | 0x0A#8 => .ok (.ldVxK x)
  | 0x15#8 => .ok (.ldDTVx x)
  | 0x18#8 => .ok (.ldSTVx x)
  | 0x1E#8 => .ok (.addI x)
  | 0x29#8 => .ok (.ldF x)
  | 0x33#8 => .ok (.ldB x)
  | 0x55#8 => .ok (.ldMemVx x)
  | 0x65#8 => .ok (.ldVxMem x)
  | _ => .error (.illegal w)

/-- The decoder of 30_encoding.md R62: an instruction, or `illegal` by name (R64). -/
def decode (w : Word) : Except DecodeError Instr :=
  match opField w with
  | 0x0#4 => .ok (decode0 w)
  | 0x1#4 => .ok (.jp (nnnField w))
  | 0x2#4 => .ok (.call (nnnField w))
  | 0x3#4 => .ok (.seImm (xField w) (kkField w))
  | 0x4#4 => .ok (.sneImm (xField w) (kkField w))
  | 0x5#4 => if nField w = 0x0#4 then .ok (.seReg (xField w) (yField w)) else .error (.illegal w)
  | 0x6#4 => .ok (.ldImm (xField w) (kkField w))
  | 0x7#4 => .ok (.addImm (xField w) (kkField w))
  | 0x8#4 => decode8 w
  | 0x9#4 => if nField w = 0x0#4 then .ok (.sneReg (xField w) (yField w)) else .error (.illegal w)
  | 0xA#4 => .ok (.ldI (nnnField w))
  | 0xB#4 => .ok (.jpV0 (nnnField w))
  | 0xC#4 => .ok (.rnd (xField w) (kkField w))
  | 0xD#4 => .ok (.drw (xField w) (yField w) (nField w))
  | 0xE#4 => decodeE w
  | _ => decodeF w

/-- The word of two bytes in memory order: big-endian, the first byte in bits 15..8 (20_memory.md R50). -/
def wordOfBytes (hi lo : Byte) : Word := hi ++ lo

/-- The byte of a word that lies at the lower address (20_memory.md R50). -/
def highByte (w : Word) : Byte := w.extractLsb' 8 8

/-- The byte of a word that lies at the higher address (20_memory.md R50). -/
def lowByte (w : Word) : Byte := w.extractLsb' 0 8

/-- The decoder on bytes in memory order: it always consumes two (30_encoding.md R58) and answers the rest. -/
def decodeBytes : List Byte → Except DecodeError (Instr × List Byte)
  | hi :: lo :: rest =>
    match decode (wordOfBytes hi lo) with
    | .ok i => .ok (i, rest)
    | .error e => .error e
  | short => .error (.truncated short.length)

/-! ### Encode (30_encoding.md R61) -/

/-- Format FA: op, nnn. -/
def wordFA (op : Nibble) (nnn : Addr12) : Word := op ++ nnn

/-- Formats FXK and FX: op, x, kk (for FX the selector sub8 stands in kk's place). -/
def wordFXK (op : Nibble) (x : Reg) (kk : Byte) : Word := op ++ x ++ kk

/-- Formats FXY and FXYN: op, x, y, and sub4 or n. -/
def wordFXY (op : Nibble) (x y : Reg) (n : Nibble) : Word := op ++ x ++ y ++ n

/-- The word of an instruction, from the formats and patterns of 30_encoding.md R61 and R62. -/
def encode : Instr → Word
  | .cls => 0x00E0#16
  | .ret => 0x00EE#16
  | .sys nnn => wordFA 0x0#4 nnn
  | .jp nnn => wordFA 0x1#4 nnn
  | .call nnn => wordFA 0x2#4 nnn
  | .seImm x kk => wordFXK 0x3#4 x kk
  | .sneImm x kk => wordFXK 0x4#4 x kk
  | .seReg x y => wordFXY 0x5#4 x y 0x0#4
  | .ldImm x kk => wordFXK 0x6#4 x kk
  | .addImm x kk => wordFXK 0x7#4 x kk
  | .ldReg x y => wordFXY 0x8#4 x y 0x0#4
  | .orReg x y => wordFXY 0x8#4 x y 0x1#4
  | .andReg x y => wordFXY 0x8#4 x y 0x2#4
  | .xorReg x y => wordFXY 0x8#4 x y 0x3#4
  | .addReg x y => wordFXY 0x8#4 x y 0x4#4
  | .sub x y => wordFXY 0x8#4 x y 0x5#4
  | .shr x y => wordFXY 0x8#4 x y 0x6#4
  | .subn x y => wordFXY 0x8#4 x y 0x7#4
  | .shl x y => wordFXY 0x8#4 x y 0xE#4
  | .sneReg x y => wordFXY 0x9#4 x y 0x0#4
  | .ldI nnn => wordFA 0xA#4 nnn
  | .jpV0 nnn => wordFA 0xB#4 nnn
  | .rnd x kk => wordFXK 0xC#4 x kk
  | .drw x y n => wordFXY 0xD#4 x y n
  | .skp x => wordFXK 0xE#4 x 0x9E#8
  | .sknp x => wordFXK 0xE#4 x 0xA1#8
  | .ldVxDT x => wordFXK 0xF#4 x 0x07#8
  | .ldVxK x => wordFXK 0xF#4 x 0x0A#8
  | .ldDTVx x => wordFXK 0xF#4 x 0x15#8
  | .ldSTVx x => wordFXK 0xF#4 x 0x18#8
  | .addI x => wordFXK 0xF#4 x 0x1E#8
  | .ldF x => wordFXK 0xF#4 x 0x29#8
  | .ldB x => wordFXK 0xF#4 x 0x33#8
  | .ldMemVx x => wordFXK 0xF#4 x 0x55#8
  | .ldVxMem x => wordFXK 0xF#4 x 0x65#8

/-- The two bytes of an instruction in memory order (20_memory.md R50). -/
def encodeBytes (i : Instr) : List Byte := [highByte (encode i), lowByte (encode i)]

/-- The word of an instruction that the opcode table gives as a number of `nbits` bits; the bits above are 0. -/
def tableWord (nbits w : Nat) : Word := BitVec.ofNat 16 (w % 2 ^ nbits)

/-- The instruction this decoder reads from a word of the opcode table, laid out big-endian in memory. -/
def decodeTableWord (nbits w : Nat) : Option Instr :=
  match decodeBytes [highByte (tableWord nbits w), lowByte (tableWord nbits w)] with
  | .ok (i, _) => some i
  | .error _ => none

end Sys2Proof
end

