-- ==== Sys2Proof/Config.lean ====
section
/-! DEFINITION. The parameters of the machine, which do not change during a run (00_scope.md R8, R9; 10_state.md R17),
and the free value of the random oracle. Their defaults stand in Machine/Defaults.lean. -/

namespace Sys2Proof

/-- `FONT_INDEX_MODE`: the glyph that Fx29 takes for Vx > 15 (42_index_memory.md R96). -/
inductive FontIndexMode where
  /-- The low four bits of Vx. -/
  | lowNibble
  /-- All of Vx. -/
  | raw
deriving DecidableEq, Repr

/-- The parameters of the machine (10_state.md R17): those that 00_scope.md R8 leaves open, and the font. -/
structure Config where
  /-- `TIMER_DIVIDER`: executed steps per timer tick, at least 1 (44_keypad_timers.md R116). -/
  timerDivider : Nat
  /-- `MEM_FILL`: what boot writes outside the font and the image (20_memory.md R47). -/
  memFill : Byte
  /-- `FONT_INDEX_MODE` (42_index_memory.md R96). -/
  fontIndexMode : FontIndexMode
  /-- `Q_ADD_FLAG_SELF` (41_alu.md R87). -/
  qAddFlagSelf : Bool
  /-- `Q_SUB_FLAG_STRICT` (41_alu.md R88, R89). -/
  qSubFlagStrict : Bool
  /-- `Q_INDEX_INCREMENT` (42_index_memory.md R98, R99). -/
  qIndexIncrement : Bool
  /-- `Q_DRAW_WRAP` (43_display.md R105). -/
  qDrawWrap : Bool
  /-- The font table's contents, which boot copies to 0x000..0x04F: 16 glyphs of 5 rows, glyph g at bytes 5g..5g+4, top
  row first (10_state.md R17; 20_memory.md R46). -/
  font : Vector Byte 80
deriving DecidableEq, Repr

/-- `RND`: the byte of the k-th draw from the random oracle. A FREE VALUE: it has no body, so nothing can be proved of
it (00_scope.md R8; 41_alu.md R92; 92_eei_decisions.md D25). DESIGN CHOICE, safe: log entry 3. -/
opaque Config.rnd : Nat → Byte

end Sys2Proof
end

