-- ==== Sys2Proof/Machine/Defaults.lean ====
section
/-! DEFINITION. The numbers of this implementation: the parameters' default values (00_scope.md R8; 20_memory.md R46), the
memory map (R45), and what a byte of memory that nothing has written reads as (R47). -/

namespace Sys2Proof.Machine

/-- The canonical hexadecimal font, the default of the parameter `Config.font` (20_memory.md R46; the spec marks the bytes
as general knowledge, D21). PRESUMED, unsafe: log entry 6. -/
def fontTable : List Byte :=
  [0xF0#8, 0x90#8, 0x90#8, 0x90#8, 0xF0#8] ++ [0x20#8, 0x60#8, 0x20#8, 0x20#8, 0x70#8] ++
  [0xF0#8, 0x10#8, 0xF0#8, 0x80#8, 0xF0#8] ++ [0xF0#8, 0x10#8, 0xF0#8, 0x10#8, 0xF0#8] ++
  [0x90#8, 0x90#8, 0xF0#8, 0x10#8, 0x10#8] ++ [0xF0#8, 0x80#8, 0xF0#8, 0x10#8, 0xF0#8] ++
  [0xF0#8, 0x80#8, 0xF0#8, 0x90#8, 0xF0#8] ++ [0xF0#8, 0x10#8, 0x20#8, 0x40#8, 0x40#8] ++
  [0xF0#8, 0x90#8, 0xF0#8, 0x90#8, 0xF0#8] ++ [0xF0#8, 0x90#8, 0xF0#8, 0x10#8, 0xF0#8] ++
  [0xF0#8, 0x90#8, 0xF0#8, 0x90#8, 0x90#8] ++ [0xE0#8, 0x90#8, 0xE0#8, 0x90#8, 0xE0#8] ++
  [0xF0#8, 0x80#8, 0x80#8, 0x80#8, 0xF0#8] ++ [0xE0#8, 0x90#8, 0x90#8, 0x90#8, 0xE0#8] ++
  [0xF0#8, 0x80#8, 0xF0#8, 0x80#8, 0xF0#8] ++ [0xF0#8, 0x80#8, 0xF0#8, 0x80#8, 0x80#8]

/-- Every parameter at the default of 00_scope.md R8, which is the document's normative behaviour (R9), and the font of
20_memory.md R46. DESIGN CHOICE, unsafe: log entry 2. -/
def defaultConfig : Config where
  timerDivider := 9
  memFill := 0x00#8
  fontIndexMode := .lowNibble
  qAddFlagSelf := false
  qSubFlagStrict := false
  qIndexIncrement := false
  qDrawWrap := false
  font := ⟨fontTable.toArray, by decide⟩

/-- The number of bytes of MEM; the highest address is one less (20_memory.md R43). -/
def memSize : Nat := 4096

/-- Where a program is loaded and where PC starts (00_scope.md R8; 70_reset_and_hazards.md R137). -/
def programBase : Nat := 0x200

/-- The largest program image (70_reset_and_hazards.md R136). -/
def maxImage : Nat := 3584

/-- What an address that memory does not list reads as: what boot leaves there with no image and the default
parameters, the font below 0x050 and 0x00 above (20_memory.md R46, R47; D5). DESIGN CHOICE, unsafe: log entry 5. -/
def blankByte (a : Nat) : Byte := fontTable.getD a 0x00#8

end Sys2Proof.Machine
end

