-- ==== Sys2Proof/Machine/State.lean ====
section
/-! DEFINITION. The state of the machine (10_state.md R16), the reasons a step can stop, and the state after reset
(70_reset_and_hazards.md R135). Plain data throughout. -/

namespace Sys2Proof.Machine

/-- MEM: the bytes that differ from `blankByte`, addresses strictly rising (`Memory.wf` in Machine/Ops.lean). -/
abbrev Memory := List Host.Cell

/-- FB: 32 rows of 64 pixels, row-major, row 0 at the top, column 0 at the left (10_state.md R36). -/
abbrev Framebuffer := Vector (Vector Bool 64) 32

/-- The fatal conditions of 60_exceptions.md R119. -/
inductive FaultKind where
  /-- A fetched word matches no pattern. -/
  | illegalOpcode
  /-- SYS was executed. -/
  | unsupportedInstruction
  /-- CALL at SD = 16. -/
  | stackOverflow
  /-- RET at SD = 0. -/
  | stackUnderflow
  /-- An effective address above 0xFFF, of the fetch, DRW, Fx33, Fx55 or Fx65. -/
  | outOfBoundsAccess
  /-- SKP or SKNP with Vx > 15. -/
  | keyIndexOutOfRange
  /-- The host's `boot` with an image over 3584 bytes; never in FAULT, since it leaves no machine (R136). -/
  | loadTooLarge
deriving DecidableEq, Repr

/-- What FAULT records of a fatal condition (60_exceptions.md R120). -/
structure FaultRecord where
  /-- Which condition. -/
  kind : FaultKind
  /-- The address of the instruction that faulted. -/
  pc : Word
  /-- The fetched word, for IllegalOpcode and UnsupportedInstruction. -/
  word : Option Word
  /-- The lowest failing effective address, for OutOfBoundsAccess. -/
  addr : Option Nat
  /-- The value of Vx, for KeyIndexOutOfRange. -/
  value : Option Byte
deriving DecidableEq, Repr

/-- The state of 10_state.md R16, with two fields of the model's own at the end. -/
structure State where
  /-- V0..VF; VF is also the flag register (R18, R19). -/
  v : Vector Byte 16
  /-- I, the address register (R23). -/
  i : Word
  /-- PC, the address of the current instruction (R25). -/
  pc : Word
  /-- STACK[0..15] (R28). -/
  stack : Vector Word 16
  /-- SD, the number of active frames, 0..16 (R28). -/
  sd : Fin 17
  /-- DT, the delay timer (R30). -/
  dt : Byte
  /-- ST, the sound timer (R30). -/
  st : Byte
  /-- TDIV, the timer divider (R31). -/
  tdiv : Nat
  /-- HALT: a key wait is pending (R33). -/
  halt : Bool
  /-- HALT_REG: the register the key wait will write (R33). -/
  haltReg : Reg
  /-- MEM (R35). -/
  mem : Memory
  /-- FB (R36). -/
  fb : Framebuffer
  /-- DIRTY: FB was drawn on or cleared since the last render (R37). -/
  dirty : Bool
  /-- KEY[0..15], true when pressed (R39). -/
  key : Vector Bool 16
  /-- FAULT: the record of the fatal condition that ended the run (R41). -/
  fault : Option FaultRecord
  /-- The parameters of the machine, R17: no instruction and no step changes them. DESIGN CHOICE,
  safe: log entry 1. -/
  config : Config
  /-- How many bytes were drawn from the random oracle, so that each draw is a fresh one. DESIGN CHOICE,
  safe: log entry 3. -/
  draws : Nat
deriving DecidableEq, Repr

/-- The reasons a transition does not happen. No instruction's meaning answers one: a fatal condition of the spec is a
NEXT state with FAULT set (60_exceptions.md R121). DEDUCED, safe: log entry 7. -/
inductive Fault where
  /-- Raised by `step` alone, on a machine whose FAULT is set: the spec gives it no transition (60_exceptions.md R122).
  SAFE: the machine stops where the spec's machine stops. -/
  | machineFaulted (r : FaultRecord)
  /-- Raised by the host operation `boot` alone, on an image of `size` bytes, over 3584 (70_reset_and_hazards.md R136).
  SAFE: the spec rejects it too. -/
  | loadTooLarge (size : Nat)
  /-- Raised by a host operation other than `boot` on a block that was never booted (70_reset_and_hazards.md R138).
  SAFE: the spec gives it no transition. -/
  | notBooted
deriving DecidableEq, Repr

/-- Why an instruction has no meaning here. -/
inductive Refusal where
  /-- Raised by an arm of `exec` whose instruction is not modelled yet. No arm is left so. SAFE: nothing is claimed of
  such a step. -/
  | notModelled (mnemonic : String)
deriving DecidableEq, Repr

/-- What a step or an instruction's meaning answers. -/
abbrev Result := Host.Outcome State Fault Refusal

/-- The machine right after `boot` with an empty image and every parameter at its default (70_reset_and_hazards.md
R135): the font lies in memory's unlisted bytes. Every value but PC's is the spec's own decision (D2 to D8, D22): DESIGN
CHOICE, unsafe: log entries 2, 4, 5 and 6. -/
def State.reset : State where
  v := Vector.replicate 16 0x00#8
  i := 0x0000#16
  pc := 0x0200#16
  stack := Vector.replicate 16 0x0000#16
  sd := 0
  dt := 0x00#8
  st := 0x00#8
  tdiv := 0
  halt := false
  haltReg := 0x0#4
  mem := []
  fb := Vector.replicate 32 (Vector.replicate 64 false)
  dirty := false
  key := Vector.replicate 16 false
  fault := none
  config := defaultConfig
  draws := 0

end Sys2Proof.Machine
end

