-- ==== Sys2Proof/Machine/Ops.lean ====
section
/-! DEFINITION. The named operations over memory, registers, the stack, the timers and FAULT. Every meaning is written
over these; raising a fatal condition is one operation, `State.raise`. The spec has no return from a fault
(60_exceptions.md R122), so there is none here. -/

namespace Sys2Proof.Machine

/-! ### Memory (20_memory.md R43, R48, R49) -/

/-- The canonical form: addresses strictly rising and inside 0x000..0xFFF, and no entry that an unlisted address would
read as. -/
abbrev Memory.wf (m : Memory) : Prop :=
  m.Pairwise (fun c d => c.1 < d.1) ∧ ∀ c ∈ m, c.1 < memSize ∧ c.2 ≠ blankByte c.1

/-- `MemRead(a, 1)`. -/
def Memory.read : Memory → Nat → Byte
  | [], a => blankByte a
  | (k, b) :: m, a => if a = k then b else Memory.read m a

/-- Lists a byte at its place in the rising order. -/
def Memory.insert : Memory → Nat → Byte → Memory
  | [], a, b => [(a, b)]
  | (k, c) :: m, a, b => if a < k then (a, b) :: (k, c) :: m else (k, c) :: Memory.insert m a b

/-- `MemWrite(a, 1, b)`: the old entry goes, and the new one is listed unless it is what an unlisted address reads as. -/
def Memory.write (m : Memory) (a : Nat) (b : Byte) : Memory :=
  let rest := m.filter (fun c => c.1 != a)
  if b = blankByte a then rest else Memory.insert rest a b

/-- Writes bytes at rising addresses from `a`, in order. -/
def Memory.writeBytes : Memory → Nat → List Byte → Memory
  | m, _, [] => m
  | m, a, b :: bs => Memory.writeBytes (m.write a b) (a + 1) bs

/-- The bytes at `a`, `a + 1`, … in order. -/
def Memory.readBytes (m : Memory) (a : Nat) : Nat → List Byte
  | 0 => []
  | n + 1 => m.read a :: Memory.readBytes m (a + 1) n

/-- `check_range(base, count)`: the lowest effective address above 0xFFF, if there is one. Addresses are unbounded
naturals and never wrap (20_memory.md R48). -/
def checkRange (base : Nat) : Nat → Option Nat
  | 0 => none
  | n + 1 => if base < memSize then checkRange (base + 1) n else some base

/-- The byte of MEM at `a`. -/
def State.byteAt (s : State) (a : Nat) : Byte := s.mem.read a

/-- Stores bytes at rising addresses from `a`. -/
def State.storeBytes (s : State) (a : Nat) (bs : List Byte) : State := { s with mem := s.mem.writeBytes a bs }

/-! ### Registers (10_state.md R18 to R24) -/

/-- Reads `V[r]`. -/
def State.getV (s : State) (r : Reg) : Byte := s.v[r.toNat]

/-- `V[r] <- b`. -/
def State.setV (s : State) (r : Reg) (b : Byte) : State := { s with v := s.v.set r.toNat b }

/-- `V[0xF] <- (if c then 1 else 0)`, the flag output of an instruction, written after every other register (10_state.md
R20). -/
def State.setFlag (s : State) (c : Bool) : State := s.setV Reg.flag (if c then 0x01#8 else 0x00#8)

/-- `I <- w`. -/
def State.setI (s : State) (w : Word) : State := { s with i := w }

/-- Loads the first `n` registers from the bytes at `base`, `base + 1`, … (42_index_memory.md R99). -/
def loadRegs (m : Memory) (base : Nat) : Nat → Vector Byte 16 → Vector Byte 16
  | 0, v => v
  | n + 1, v => (loadRegs m base n v).setIfInBounds n (m.read (base + n))

/-- Loads V0, V1, …, `n` registers in all, from the bytes at `a`, `a + 1`, … -/
def State.loadBlock (s : State) (a n : Nat) : State := { s with v := loadRegs s.mem a n s.v }

/-! ### Program counter (10_state.md R26) -/

/-- `PC <- w`. -/
def State.setPc (s : State) (w : Word) : State := { s with pc := w }

/-- The default advance, one instruction width. -/
def State.advance (s : State) : State := s.setPc (s.pc + 2#16)

/-- The advance of a skip: by 4 when its condition holds, by 2 otherwise (40_control_flow.md R69). -/
def State.skipIf (s : State) (c : Bool) : State := s.setPc (s.pc + if c then 4#16 else 2#16)

/-! ### Return stack (10_state.md R28; 90_conflicts.md C1) -/

/-- Pushes a return address: `STACK[SD]`, then SD + 1; none when 16 frames are active. -/
def State.push (s : State) (w : Word) : Option State :=
  if h : s.sd.val < 16 then
    some { s with stack := s.stack.set s.sd.val w, sd := ⟨s.sd.val + 1, by omega⟩ }
  else none

/-- Pops the most recent frame: SD - 1, then `STACK[SD]`; none when no frame is active. The slot keeps its value. -/
def State.pop (s : State) : Option (Word × State) :=
  if s.sd.val = 0 then none
  else some (s.stack[s.sd.val - 1], { s with sd := ⟨s.sd.val - 1, by omega⟩ })

/-! ### Timers (44_keypad_timers.md R113 to R116) -/

/-- `DT <- b`. -/
def State.setDT (s : State) (b : Byte) : State := { s with dt := b }

/-- `ST <- b`. -/
def State.setST (s : State) (b : Byte) : State := { s with st := b }

/-- A timer's decrement: toward 0 and never below it (10_state.md R30). -/
def countDown (b : Byte) : Byte := if b = 0x00#8 then 0x00#8 else b - 0x01#8

/-- `tick()`: the divider moves, and both timers count down when it reaches TIMER_DIVIDER. -/
def State.tick (s : State) : State :=
  if s.tdiv + 1 = s.config.timerDivider then
    { s with tdiv := 0, dt := countDown s.dt, st := countDown s.st }
  else { s with tdiv := s.tdiv + 1 }

/-! ### Halt latch, display, random oracle -/

/-- `HALT <- true; HALT_REG <- x` (44_keypad_timers.md R112). -/
def State.latchKeyWait (s : State) (x : Reg) : State := { s with halt := true, haltReg := x }

/-- A new framebuffer; DIRTY is set whether or not a pixel changed (43_display.md R109). -/
def State.setDisplay (s : State) (fb : Framebuffer) : State := { s with fb := fb, dirty := true }

/-- `Key(k)` (10_state.md R39). -/
def State.keyDown (s : State) (k : Key) : Bool := s.key[k.toNat]

/-- `draw RND()`: the next byte of the oracle, and the state with the draw counted (41_alu.md R92). -/
def State.drawRandom (s : State) : Byte × State := (Config.rnd s.draws, { s with draws := s.draws + 1 })

/-! ### Fatal conditions (60_exceptions.md R119 to R122) -/

/-- `raise F(info)`: FAULT gets the record, with the address of the faulting instruction, and nothing else changes
(R121). -/
def State.raise (s : State) (kind : FaultKind) (word : Option Word := none) (addr : Option Nat := none)
    (value : Option Byte := none) : State :=
  { s with fault := some { kind := kind, pc := s.pc, word := word, addr := addr, value := value } }

/-- Goes on in `body` if every effective address of the range exists, else raises OutOfBoundsAccess with the lowest
failing one, before any access (20_memory.md R48). -/
def State.checked (s : State) (base count : Nat) (body : State) : State :=
  match checkRange base count with
  | some a => s.raise .outOfBoundsAccess (addr := some a)
  | none => body

/-- The numeric code of a fatal condition; no program can read it (60_exceptions.md R119). -/
def faultCode : FaultKind → Nat
  | .illegalOpcode => 1
  | .unsupportedInstruction => 2
  | .stackOverflow => 3
  | .stackUnderflow => 4
  | .outOfBoundsAccess => 5
  | .keyIndexOutOfRange => 6
  | .loadTooLarge => 7

/-! ### The parts of a step (70_reset_and_hazards.md R139) -/

/-- `fetch()`: the big-endian word at PC, or the first of its two addresses that does not exist (20_memory.md R50). -/
def State.fetchWord (s : State) : Except Nat Word :=
  match checkRange s.pc.toNat 2 with
  | some a => .error a
  | none => .ok (wordOfBytes (s.byteAt s.pc.toNat) (s.byteAt (s.pc.toNat + 1)))

/-- The end of a step: the tick, unless the instruction faulted (44_keypad_timers.md R116; 60_exceptions.md R121). -/
def State.endStep (s : State) : State := if s.fault.isSome then s else s.tick

/-- `endStep` on an instruction's result. -/
def endResult : Result → Result
  | .next s => .next s.endStep
  | .fault r => .fault r
  | .refused r => .refused r

/-- The state in which the next step fetches and runs the instruction with word `w`: the word stands big-endian at PC,
and nothing keeps the step from fetching (no fault, no key wait, a PC whose two bytes exist). -/
def State.placeWord (s : State) (w : Word) : State :=
  let pc := if s.pc.toNat + 1 < memSize then s.pc else BitVec.ofNat 16 programBase
  { s with pc := pc, halt := false, fault := none,
           mem := s.mem.writeBytes pc.toNat [highByte w, lowByte w] }

end Sys2Proof.Machine
end

