-- ==== Sys2Proof/Machine/Flags.lean ====
section
/-! DEFINITION. The results and flags of the arithmetic (41_alu.md R79, R87 to R91), computed from the operands' old
values (R80). -/

namespace Sys2Proof.Machine

/-- The sum modulo 256 (R82, R87). -/
def sumByte (a b : Byte) : Byte := BitVec.ofNat 8 (a.toNat + b.toNat)

/-- The carry of ADD Vx, Vy: the exact sum is over 255; under Q_ADD_FLAG_SELF the sum of Vx and itself is (R87). -/
def addCarry (c : Config) (a b : Byte) : Bool :=
  if c.qAddFlagSelf then decide (a.toNat + a.toNat > 255) else decide (a.toNat + b.toNat > 255)

/-- The difference `a - b` modulo 256 (R88, R89). -/
def diffByte (a b : Byte) : Byte := BitVec.ofInt 8 ((a.toNat : Int) - (b.toNat : Int))

/-- The no-borrow flag of minuend `a` and subtrahend `b`: `a ≥ b`, or `a > b` under Q_SUB_FLAG_STRICT (R88, R89;
90_conflicts.md C5, C6). -/
def noBorrow (c : Config) (a b : Byte) : Bool :=
  if c.qSubFlagStrict then decide (a.toNat > b.toNat) else decide (a.toNat ≥ b.toNat)

/-- A byte shifted right by one (R90). -/
def shiftRight (b : Byte) : Byte := b >>> 1

/-- The bit a right shift moves out: the old bit 0 (R90). -/
def rightOut (b : Byte) : Bool := b.getLsbD 0

/-- A byte shifted left by one, modulo 256 (R91). -/
def shiftLeft (b : Byte) : Byte := b <<< 1

/-- The bit a left shift moves out: the old bit 7 (R91). -/
def leftOut (b : Byte) : Bool := b.getLsbD 7

end Sys2Proof.Machine
end

