-- ==== Sys2Proof/Machine/Alu.lean ====
section
/-! DEFINITION. Register loads and ALU (41_alu.md R79 to R92). Both operands are read before any write, then the result
registers are written, then VF (R80; 90_conflicts.md C4). -/

namespace Sys2Proof.Machine

/-- R81, LD Vx, kk. -/
def execLdImm (x : Reg) (kk : Byte) (s : State) : Result := .next (s.setV x kk).advance

/-- R82, ADD Vx, kk: no flag. -/
def execAddImm (x : Reg) (kk : Byte) (s : State) : Result := .next (s.setV x (sumByte (s.getV x) kk)).advance

/-- R83, LD Vx, Vy. -/
def execLdReg (x y : Reg) (s : State) : Result := .next (s.setV x (s.getV y)).advance

/-- R84, OR Vx, Vy: VF is not reset. -/
def execOrReg (x y : Reg) (s : State) : Result := .next (s.setV x (s.getV x ||| s.getV y)).advance

/-- R85, AND Vx, Vy. -/
def execAndReg (x y : Reg) (s : State) : Result := .next (s.setV x (s.getV x &&& s.getV y)).advance

/-- R86, XOR Vx, Vy. -/
def execXorReg (x y : Reg) (s : State) : Result := .next (s.setV x (s.getV x ^^^ s.getV y)).advance

/-- R87, ADD Vx, Vy. -/
def execAddReg (x y : Reg) (s : State) : Result :=
  let a := s.getV x
  let b := s.getV y
  .next ((s.setV x (sumByte a b)).setFlag (addCarry s.config a b)).advance

/-- R88, SUB Vx, Vy: Vx minus Vy. -/
def execSub (x y : Reg) (s : State) : Result :=
  let a := s.getV x
  let b := s.getV y
  .next ((s.setV x (diffByte a b)).setFlag (noBorrow s.config a b)).advance

/-- R89, SUBN Vx, Vy: Vy minus Vx, into Vx. -/
def execSubn (x y : Reg) (s : State) : Result :=
  let a := s.getV x
  let b := s.getV y
  .next ((s.setV x (diffByte b a)).setFlag (noBorrow s.config b a)).advance

/-- R90, SHR Vx, Vy: the old Vy shifted, into Vy and Vx. -/
def execShr (x y : Reg) (s : State) : Result :=
  let b := s.getV y
  .next (((s.setV y (shiftRight b)).setV x (shiftRight b)).setFlag (rightOut b)).advance

/-- R91, SHL Vx, Vy: the old Vy shifted, into Vy and Vx. -/
def execShl (x y : Reg) (s : State) : Result :=
  let b := s.getV y
  .next (((s.setV y (shiftLeft b)).setV x (shiftLeft b)).setFlag (leftOut b)).advance

/-- RND with the drawn byte given: R92's `V[x] <- r & kk`. -/
def maskedDraw (r : Byte) (x : Reg) (kk : Byte) (s : State) : State := (s.setV x (r &&& kk)).advance

/-- R92, RND Vx, kk: a fresh free byte each time. -/
def execRnd (x : Reg) (kk : Byte) (s : State) : Result :=
  .next (maskedDraw s.drawRandom.1 x kk s.drawRandom.2)

end Sys2Proof.Machine
end

