-- ==== Sys2Proof/Machine/Operands.lean ====
section
/-! DEFINITION. The operand forms: immediates (30_encoding.md R60), the one data addressing mode, register indirect
through I (42_index_memory.md R93), and what the instructions of that file form from a register. -/

namespace Sys2Proof.Machine

/-- `zext_16(nnn)` (30_encoding.md R60). -/
def addrWord (nnn : Addr12) : Word := nnn.setWidth 16

/-- `zext_16` of a byte. -/
def byteWord (b : Byte) : Word := b.setWidth 16

/-- The effective address of the first byte at I; the k-th is `k` more, without wrap-around (R93). -/
def State.base (s : State) : Nat := s.i.toNat

/-- The number of registers V0..Vx. -/
def blockSize (x : Reg) : Nat := x.toNat + 1

/-- The values of V0..Vx, in order (42_index_memory.md R98). -/
def State.regBlock (s : State) (x : Reg) : List Byte := s.v.toList.take (blockSize x)

/-- I after a block transfer: unchanged, or I + x + 1 modulo 65536 under Q_INDEX_INCREMENT (R98, R99). -/
def State.bumpIndex (s : State) (x : Reg) : State :=
  if s.config.qIndexIncrement then s.setI (BitVec.ofNat 16 (s.i.toNat + blockSize x)) else s

/-- The glyph that Fx29 looks up (R96). -/
def glyphIndex (c : Config) (b : Byte) : Nat :=
  match c.fontIndexMode with
  | .lowNibble => b.toNat % 16
  | .raw => b.toNat

/-- The address of glyph g: `5 * g`, for the font starts at 0x000 (R96; 20_memory.md R46). -/
def glyphAddress (g : Nat) : Word := BitVec.ofNat 16 (5 * g)

/-- The hundreds, tens and ones of a byte, in the order Fx33 stores them (R97). -/
def bcdDigits (b : Byte) : List Byte :=
  [BitVec.ofNat 8 (b.toNat / 100), BitVec.ofNat 8 (b.toNat / 10 % 10), BitVec.ofNat 8 (b.toNat % 10)]

end Sys2Proof.Machine
end

