-- ==== Sys2Proof/Machine/ControlFlow.lean ====
section
/-! DEFINITION. Control flow: SYS, RET, JP, CALL, the register skips, JP V0 (40_control_flow.md R68 to R78). A target is
not checked here; the next fetch checks it (R68). -/

namespace Sys2Proof.Machine

/-- R70, SYS nnn: always raises UnsupportedInstruction with the fetched word, which is `encode (.sys nnn)`. -/
def execSys (nnn : Addr12) (s : State) : Result :=
  .next (s.raise .unsupportedInstruction (word := some (encode (.sys nnn))))

/-- R71, RET. -/
def execRet (s : State) : Result :=
  match s.pop with
  | none => .next (s.raise .stackUnderflow)
  | some (target, t) => .next (t.setPc target)

/-- R72, JP nnn. -/
def execJp (nnn : Addr12) (s : State) : Result := .next (s.setPc (addrWord nnn))

/-- R73, CALL nnn. -/
def execCall (nnn : Addr12) (s : State) : Result :=
  match s.push (s.pc + 2#16) with
  | none => .next (s.raise .stackOverflow)
  | some t => .next (t.setPc (addrWord nnn))

/-- R74, SE Vx, kk. -/
def execSeImm (x : Reg) (kk : Byte) (s : State) : Result := .next (s.skipIf (s.getV x == kk))

/-- R75, SNE Vx, kk. -/
def execSneImm (x : Reg) (kk : Byte) (s : State) : Result := .next (s.skipIf (s.getV x != kk))

/-- R76, SE Vx, Vy. -/
def execSeReg (x y : Reg) (s : State) : Result := .next (s.skipIf (s.getV x == s.getV y))

/-- R77, SNE Vx, Vy. -/
def execSneReg (x y : Reg) (s : State) : Result := .next (s.skipIf (s.getV x != s.getV y))

/-- R78, JP V0, nnn: the register is always V0. -/
def execJpV0 (nnn : Addr12) (s : State) : Result := .next (s.setPc (addrWord nnn + byteWord (s.getV 0x0#4)))

end Sys2Proof.Machine
end

