-- ==== Sys2Proof/Machine/Blitter.lean ====
section
/-! DEFINITION. The sprite blitter: the framebuffer's pixels and the XOR drawing with clipping or wrapping
(43_display.md R101 to R106). -/

namespace Sys2Proof.Machine

/-- The width of the display (00_scope.md R8). -/
def screenWidth : Nat := 64

/-- The height of the display (00_scope.md R8). -/
def screenHeight : Nat := 32

/-- `Pixel(x, y)`; off the grid there is no pixel, and nothing asks for one there. -/
def Framebuffer.pixel (fb : Framebuffer) (x y : Nat) : Bool :=
  if h : x < 64 ∧ y < 32 then (fb[y]'h.2)[x]'h.1 else false

/-- `Pixel(x, y) <- b`; off the grid nothing changes. -/
def Framebuffer.setPixel (fb : Framebuffer) (x y : Nat) (b : Bool) : Framebuffer :=
  if h : x < 64 ∧ y < 32 then fb.set y ((fb[y]'h.2).set x b h.1) h.2 else fb

/-- Every pixel off (R100). -/
def blankScreen : Framebuffer := Vector.replicate 32 (Vector.replicate 64 false)

/-- A drawing in progress: the framebuffer, and whether a collision occurred. -/
structure Blit where
  /-- The framebuffer so far. -/
  fb : Framebuffer
  /-- `col` of R101. -/
  hit : Bool
deriving DecidableEq, Repr

/-- Whether a position lies outside the 64×32 grid (R104). -/
def offGrid (px py : Nat) : Bool := decide (screenWidth ≤ px) || decide (screenHeight ≤ py)

/-- One sprite bit of 1 at a position: off the grid it collides and is discarded, on the grid it toggles its pixel and
collides if the pixel was set (R103, R104). -/
def Blit.toggle (b : Blit) (px py : Nat) : Blit :=
  if offGrid px py then { b with hit := true }
  else { fb := b.fb.setPixel px py (!b.fb.pixel px py), hit := b.hit || b.fb.pixel px py }

/-- The position a sprite bit is drawn at: not reduced, or modulo the screen's size under Q_DRAW_WRAP (R104, R105). -/
def drawPosition (wrap : Bool) (px py : Nat) : Nat × Nat :=
  if wrap then (px % screenWidth, py % screenHeight) else (px, py)

/-- The bit of a sprite row at column c, the most significant first (R102). -/
def spriteBit (row : Byte) (c : Nat) : Bool := row.getLsbD (7 - c)

/-- Draws the sprite bit at column c of a row; a bit of 0 does nothing (R103). -/
def Blit.drawBit (wrap : Bool) (ox py : Nat) (row : Byte) (b : Blit) (c : Nat) : Blit :=
  if spriteBit row c then
    b.toggle (drawPosition wrap (ox + c) py).1 (drawPosition wrap (ox + c) py).2
  else b

/-- Draws the eight columns of a row, from the left (R101, R102). -/
def Blit.drawRow (wrap : Bool) (ox py : Nat) (row : Byte) (b : Blit) : Blit :=
  (List.range 8).foldl (Blit.drawBit wrap ox py row) b

/-- Draws the rows of a sprite, each one row below the one before (R101, R102). -/
def Blit.drawRows (wrap : Bool) (ox : Nat) : Nat → List Byte → Blit → Blit
  | _, [], b => b
  | py, row :: rows, b => Blit.drawRows wrap ox (py + 1) rows (b.drawRow wrap ox py row)

end Sys2Proof.Machine
end

