-- ==== Sys2Proof/Machine/Display.lean ====
section
/-! DEFINITION. The display instructions CLS and DRW (43_display.md R100 to R109). -/

namespace Sys2Proof.Machine

/-- R100, CLS. -/
def execCls (s : State) : Result := .next (s.setDisplay blankScreen).advance

/-- The n sprite rows at I (R101, R102). -/
def State.spriteRows (s : State) (n : Nibble) : List Byte := s.mem.readBytes s.base n.toNat

/-- The framebuffer and the collision of DRW Vx, Vy, n: the origin is read before VF is written (R101, R107). -/
def State.drawSprite (s : State) (x y : Reg) (n : Nibble) : Blit :=
  Blit.drawRows s.config.qDrawWrap (s.getV x).toNat (s.getV y).toNat (s.spriteRows n) { fb := s.fb, hit := false }

/-- R101, DRW Vx, Vy, n: with n = 0 nothing is read or checked, VF is 0 and DIRTY is set (R106). -/
def execDrw (x y : Reg) (n : Nibble) (s : State) : Result :=
  let drawn := s.drawSprite x y n
  .next (s.checked s.base n.toNat ((s.setDisplay drawn.fb).setFlag drawn.hit).advance)

end Sys2Proof.Machine
end

