-- ==== Sys2Proof/Machine/IndexMemory.lean ====
section
/-! DEFINITION. The address register and the memory transfers (42_index_memory.md R93 to R99). Every address of a
transfer is checked before the first access (20_memory.md R48). -/

namespace Sys2Proof.Machine

/-- R94, LD I, nnn. -/
def execLdI (nnn : Addr12) (s : State) : Result := .next (s.setI (addrWord nnn)).advance

/-- R95, ADD I, Vx: modulo 65536, no flag, no check. -/
def execAddI (x : Reg) (s : State) : Result := .next (s.setI (s.i + byteWord (s.getV x))).advance

/-- R96, LD F, Vx. -/
def execLdF (x : Reg) (s : State) : Result :=
  .next (s.setI (glyphAddress (glyphIndex s.config (s.getV x)))).advance

/-- R97, LD B, Vx. -/
def execLdB (x : Reg) (s : State) : Result :=
  .next (s.checked s.base 3 (s.storeBytes s.base (bcdDigits (s.getV x))).advance)

/-- R98, LD [I], Vx. -/
def execLdMemVx (x : Reg) (s : State) : Result :=
  .next (s.checked s.base (blockSize x) ((s.storeBytes s.base (s.regBlock x)).bumpIndex x).advance)

/-- R99, LD Vx, [I]: VF, if it is loaded, is an ordinary register. -/
def execLdVxMem (x : Reg) (s : State) : Result :=
  .next (s.checked s.base (blockSize x) ((s.loadBlock s.base (blockSize x)).bumpIndex x).advance)

end Sys2Proof.Machine
end

