-- ==== Sys2Proof/Machine/KeypadTimers.lean ====
section
/-! DEFINITION. The keypad and timer instructions (44_keypad_timers.md R110 to R115). -/

namespace Sys2Proof.Machine

/-- The two key skips: KeyIndexOutOfRange at Vx > 15, else a skip on what the key's level makes of `want` (R110, R111). -/
def State.keySkip (s : State) (x : Reg) (want : Bool) : State :=
  if (s.getV x).toNat > 15 then s.raise .keyIndexOutOfRange (value := some (s.getV x))
  else s.skipIf (s.keyDown ((s.getV x).setWidth 4) == want)

/-- R110, SKP Vx. -/
def execSkp (x : Reg) (s : State) : Result := .next (s.keySkip x true)

/-- R111, SKNP Vx. -/
def execSknp (x : Reg) (s : State) : Result := .next (s.keySkip x false)

/-- R112, LD Vx, K: Vx is written later, by the key event (R118). -/
def execLdVxK (x : Reg) (s : State) : Result := .next (s.latchKeyWait x).advance

/-- R113, LD Vx, DT: DT before this step's tick. -/
def execLdVxDT (x : Reg) (s : State) : Result := .next (s.setV x s.dt).advance

/-- R114, LD DT, Vx. -/
def execLdDTVx (x : Reg) (s : State) : Result := .next (s.setDT (s.getV x)).advance

/-- R115, LD ST, Vx. -/
def execLdSTVx (x : Reg) (s : State) : Result := .next (s.setST (s.getV x)).advance

end Sys2Proof.Machine
end

