-- ==== Sys2Proof/Machine/Step.lean ====
section
/-! DEFINITION. One step of the machine (70_reset_and_hazards.md R139). -/

namespace Sys2Proof.Machine

/-- `step()`: no transition once FAULT is set; nothing at all while HALT; else fetch, decode, execute, tick. A fault of
the fetch or the decoder is raised as every other (60_exceptions.md R121, R123). -/
def step (s : State) : Host.Outcome State Fault Refusal :=
  match s.fault with
  | some r => .fault (.machineFaulted r)
  | none =>
    if s.halt then .next s
    else
      match s.fetchWord with
      | .error a => .next (s.raise .outOfBoundsAccess (addr := some a))
      | .ok w =>
        match decode w with
        | .error _ => .next (s.raise .illegalOpcode (word := some w))
        | .ok i => endResult (exec i s)

/-- The state whose next step fetches and runs the instruction that the opcode table gives as `w`. DESIGN
CHOICE, safe: log entry 8. -/
def State.withFetchWord (s : State) (nbits w : Nat) : State := s.placeWord (tableWord nbits w)

end Sys2Proof.Machine
end

