-- ==== Sys2Proof/Machine/HostOps.lean ====
section
/-! DEFINITION. The operations and signals of the block's only interface (60_exceptions.md R133): boot, step,
handleKeyEvent, render, getPixel and the read-only outputs. Each is one atomic transaction between steps. -/

namespace Sys2Proof.Machine

/-! ### Boot (70_reset_and_hazards.md R135, R136) -/

/-- The bytes boot leaves in MEM, from 0x000 to 0xFFF: the machine's font (10_state.md R17), MEM_FILL up to 0x1FF, the image at
0x200, MEM_FILL to the end (20_memory.md R45, R47). Irreducible, so that no unifier runs a boot. -/
@[irreducible] def bootBytes (c : Config) (image : List Byte) : List Byte :=
  c.font.toList ++ List.replicate (programBase - 80) c.memFill ++ image ++
    List.replicate (maxImage - image.length) c.memFill

/-- MEM after boot: `bootBytes` written from 0x000 on, in canonical form. -/
def bootMemory (c : Config) (image : List Byte) : Memory := Memory.writeBytes [] 0 (bootBytes c image)

/-- The machine after boot: every field of R135 at its boot value, MEM as `bootMemory`. The parameters do not change
(10_state.md R17), and the random oracle is not rewound. DESIGN CHOICE, safe: log entry 3. -/
def bootState (c : Config) (draws : Nat) (image : List Byte) : State where
  v := Vector.replicate 16 0x00#8
  i := 0x0000#16
  pc := 0x0200#16
  stack := Vector.replicate 16 0x0000#16
  sd := 0
  dt := 0x00#8
  st := 0x00#8
  tdiv := 0
  halt := false
  haltReg := 0x0#4
  mem := bootMemory c image
  fb := blankScreen
  dirty := false
  key := Vector.replicate 16 false
  fault := none
  config := c
  draws := draws

/-- `boot(image)` on a machine with these parameters: rejected before any byte is written if the image is too long, and
then there is no runnable machine (R136). -/
def bootWith (c : Config) (draws : Nat) (image : List Byte) : Result :=
  if image.length > maxImage then .fault (.loadTooLarge image.length)
  else .next (bootState c draws image)

/-- `boot(image)` on a machine that was booted before, in whatever state: no append semantics (R135). -/
def State.boot (s : State) (image : List Byte) : Result := bootWith s.config s.draws image

/-! ### Key events (44_keypad_timers.md R118) -/

/-- `KEY[k] <- pressed`. -/
def State.setKey (s : State) (k : Key) (pressed : Bool) : State := { s with key := s.key.set k.toNat pressed }

/-- The end of a key wait: `V[HALT_REG] <- k; HALT <- false`. -/
def State.resolveKeyWait (s : State) (k : Key) : State := { s.setV s.haltReg (k.setWidth 8) with halt := false }

/-- `handleKeyEvent(k, pressed)`: the state table is updated, and a transition from released to pressed ends a pending
key wait. That k is in 0..15 is its type (R134). DESIGN CHOICE, safe: log entry 9. A faulted machine takes the event as
any other does (60_exceptions.md R122). DEDUCED, safe: log entry 11. -/
def State.handleKeyEvent (s : State) (k : Key) (pressed : Bool) : State :=
  let updated := s.setKey k pressed
  if s.halt && pressed && !s.keyDown k then updated.resolveKeyWait k else updated

/-! ### Render and the outputs (60_exceptions.md R133) -/

/-- `render()`: a copy of FB and DIRTY cleared if DIRTY was set; else nothing, and nothing changes. -/
def State.render (s : State) : Option Framebuffer × State :=
  if s.dirty then (some s.fb, { s with dirty := false }) else (none, s)

/-- `getPixel(x, y)`, for x in 0..63 and y in 0..31. -/
def State.getPixel (s : State) (x : Fin 64) (y : Fin 32) : Bool := s.fb.pixel x.val y.val

/-- The output `buzzer`: ST is not 0 (the spec's decision D27). -/
def State.buzzer (s : State) : Bool := s.st != 0x00#8

/-- What the host may read of a machine, a faulted one too (60_exceptions.md R120). -/
structure Diagnostics where
  /-- V0..VF. -/
  v : Vector Byte 16
  /-- I. -/
  i : Word
  /-- PC. -/
  pc : Word
  /-- SD. -/
  sd : Fin 17
  /-- STACK. -/
  stack : Vector Word 16
  /-- DT. -/
  dt : Byte
  /-- ST. -/
  st : Byte
deriving DecidableEq, Repr

/-- The output `diag`. -/
def State.diag (s : State) : Diagnostics :=
  { v := s.v, i := s.i, pc := s.pc, sd := s.sd, stack := s.stack, dt := s.dt, st := s.st }

/-- The other outputs of R133: `dirty`, `halted` and `fault`. -/
structure Signals where
  /-- DIRTY. -/
  dirty : Bool
  /-- HALT. -/
  halted : Bool
  /-- ST ≠ 0. -/
  buzzer : Bool
  /-- FAULT. -/
  fault : Option FaultRecord
deriving DecidableEq, Repr

/-- The outputs `dirty`, `halted`, `buzzer` and `fault`. -/
def State.signals (s : State) : Signals :=
  { dirty := s.dirty, halted := s.halt, buzzer := s.buzzer, fault := s.fault }

/-! ### The host's transactions, in any order (60_exceptions.md R134) -/

/-- A transaction of the host. -/
inductive HostOp where
  /-- `boot(image)`. -/
  | boot (image : List Byte)
  /-- `step()`. -/
  | step
  /-- `handleKeyEvent(k, pressed)`. -/
  | keyEvent (k : Key) (pressed : Bool)
  /-- `render()`. -/
  | render
deriving DecidableEq, Repr

/-- One transaction on a booted machine. -/
def hostOp (op : HostOp) (s : State) : Result :=
  match op with
  | .boot image => s.boot image
  | .step => step s
  | .keyEvent k pressed => .next (s.handleKeyEvent k pressed)
  | .render => .next s.render.2

/-- The block as the host finds it: with its parameters, not booted, or booted (70_reset_and_hazards.md R138). -/
inductive Block where
  /-- Before the first boot. -/
  | unbooted (c : Config)
  /-- After a boot that was not rejected. -/
  | booted (s : State)
deriving DecidableEq, Repr

/-- One transaction on the block: before any boot, only `boot` has a transition (R138). -/
def blockOp (op : HostOp) (b : Block) : Result :=
  match b with
  | .booted s => hostOp op s
  | .unbooted c =>
    match op with
    | .boot image => bootWith c 0 image
    | .step => .fault .notBooted
    | .keyEvent _ _ => .fault .notBooted
    | .render => .fault .notBooted

/-- A list of transactions, one after another, stopping at the first that has none. -/
def hostRun : List HostOp → State → Result
  | [], s => .next s
  | op :: ops, s =>
    match hostOp op s with
    | .next t => hostRun ops t
    | .fault r => .fault r
    | .refused r => .refused r

end Sys2Proof.Machine
end

