-- ==== Sys2Proof/Safety.lean ====
section
/-! DEFINITION. The terms claims are made in: when a machine is faulted, running or idle, the invariant of its states,
and the footprint of an instruction (what it may change). -/

namespace Sys2Proof.Machine

/-! ### Runs -/

/-- FAULT is set: the run is over (60_exceptions.md R122). -/
def State.faulted (s : State) : Bool := s.fault.isSome

/-- The next step fetches an instruction: no fault, no key wait (70_reset_and_hazards.md R139). -/
def State.running (s : State) : Bool := !s.faulted && !s.halt

/-- The idle loop, the spec's test convention: the word at PC is 1nnn with nnn = PC (70_reset_and_hazards.md R140). -/
def State.idle (s : State) : Bool :=
  match s.fetchWord with
  | .ok w => opField w == 0x1#4 && addrWord (nnnField w) == s.pc
  | .error _ => false

/-- A run counts as stopped when it is faulted or idle (R140). -/
def State.stopped (s : State) : Bool := s.faulted || s.idle

/-- A safe step: it happens, and no fatal condition is raised. -/
def SafeStep (s : State) : Prop := ∃ t, step s = .next t ∧ t.fault = none

/-- `k` ticks, the timer's part of `k` executed steps (44_keypad_timers.md R116). -/
def ticks : Nat → State → State
  | 0, s => s
  | k + 1, s => ticks k s.tick

/-! ### The invariant -/

/-- The record holds exactly the fields that 60_exceptions.md R119 gives its kind (R120): an `addr` is outside memory, a
`value` is no key index, and LoadTooLarge is never in FAULT. -/
def FaultRecord.fits (r : FaultRecord) : Bool :=
  match r.kind, r.word, r.addr, r.value with
  | .illegalOpcode, some w, none, none => decide (decode w = .error (.illegal w))
  | .unsupportedInstruction, some w, none, none => decide (opField w = 0x0#4)
  | .stackOverflow, none, none, none => true
  | .stackUnderflow, none, none, none => true
  | .outOfBoundsAccess, none, some a, none => decide (memSize ≤ a)
  | .keyIndexOutOfRange, none, none, some b => decide (15 < b.toNat)
  | _, _, _, _ => false

/-- What holds of every state the machine can be in. -/
structure State.Inv (s : State) : Prop where
  /-- MEM is in its canonical form, and every listed address exists (20_memory.md R43). -/
  memory : s.mem.wf
  /-- TDIV is in 0..TIMER_DIVIDER-1 (10_state.md R31; 44_keypad_timers.md R116). -/
  divider : s.tdiv < s.config.timerDivider
  /-- The highest PC any instruction can produce (10_state.md R27). -/
  pcBound : s.pc.toNat ≤ 0x10FE
  /-- No return address is above 0x1000 (40_control_flow.md R73). -/
  stackBound : ∀ j : Fin 16, s.stack[j].toNat ≤ 0x1000
  /-- FAULT fits its kind and names the address at which PC still stands (60_exceptions.md R119 to R121). -/
  faultFits : ∀ r, s.fault = some r → r.fits = true ∧ r.pc = s.pc
  /-- A faulted machine waits for no key: the step that faulted was executed (60_exceptions.md R121). -/
  faultNotHalted : s.fault ≠ none → s.halt = false

/-! ### Footprints -/

/-- What an instruction may change beside PC: registers, bytes of MEM, and the other parts of the state by name. -/
structure Footprint where
  /-- The general registers it may write. -/
  regs : List Reg := []
  /-- The addresses it stores to. -/
  bytes : List Nat := []
  /-- I. -/
  index : Bool := false
  /-- STACK and SD. -/
  stack : Bool := false
  /-- DT. -/
  delay : Bool := false
  /-- ST. -/
  sound : Bool := false
  /-- HALT and HALT_REG. -/
  latch : Bool := false
  /-- FB and DIRTY. -/
  display : Bool := false
  /-- FAULT. -/
  fault : Bool := false
  /-- The count of random draws (the model's own). -/
  draws : Bool := false
deriving DecidableEq, Repr

/-- `t` differs from `s` at most in PC and the footprint: every other register, EVERY other byte of MEM, and every other
part of the state is as before. TDIV, KEY and the parameters are in no instruction's footprint (10_state.md R31, R39,
R17). -/
structure Keeps (f : Footprint) (s t : State) : Prop where
  regs : ∀ r, r ∉ f.regs → t.getV r = s.getV r
  bytes : ∀ a, a ∉ f.bytes → t.byteAt a = s.byteAt a
  index : f.index = false → t.i = s.i
  stack : f.stack = false → t.sd = s.sd ∧ t.stack = s.stack
  delay : f.delay = false → t.dt = s.dt
  sound : f.sound = false → t.st = s.st
  latch : f.latch = false → t.halt = s.halt ∧ t.haltReg = s.haltReg
  display : f.display = false → t.fb = s.fb ∧ t.dirty = s.dirty
  fault : f.fault = false → t.fault = s.fault
  draws : f.draws = false → t.draws = s.draws
  tdiv : t.tdiv = s.tdiv
  key : t.key = s.key
  config : t.config = s.config

/-- The addresses of `n` bytes from `a` on. -/
def addressesFrom (a n : Nat) : List Nat := (List.range n).map (a + ·)

/-- The registers V0..Vx. -/
def regsUpTo (x : Reg) : List Reg := (List.range (blockSize x)).map (BitVec.ofNat 4)

/-- The registers an instruction may write in its own step (10_state.md R21): Vx of `LD Vx, K` is written later, by the
key event. -/
def writtenRegs : Instr → List Reg
  | .ldImm x _ => [x]
  | .addImm x _ => [x]
  | .ldReg x _ => [x]
  | .orReg x _ => [x]
  | .andReg x _ => [x]
  | .xorReg x _ => [x]
  | .addReg x _ => [x, Reg.flag]
  | .sub x _ => [x, Reg.flag]
  | .subn x _ => [x, Reg.flag]
  | .shr x y => [y, x, Reg.flag]
  | .shl x y => [y, x, Reg.flag]
  | .rnd x _ => [x]
  | .drw _ _ _ => [Reg.flag]
  | .ldVxDT x => [x]
  | .ldVxMem x => regsUpTo x
  | .cls => []
  | .ret => []
  | .sys _ => []
  | .jp _ => []
  | .call _ => []
  | .seImm _ _ => []
  | .sneImm _ _ => []
  | .seReg _ _ => []
  | .sneReg _ _ => []
  | .ldI _ => []
  | .jpV0 _ => []
  | .skp _ => []
  | .sknp _ => []
  | .ldVxK _ => []
  | .ldDTVx _ => []
  | .ldSTVx _ => []
  | .addI _ => []
  | .ldF _ => []
  | .ldB _ => []
  | .ldMemVx _ => []

/-- The registers an instruction may read (10_state.md R21). -/
def readRegs : Instr → List Reg
  | .seImm x _ => [x]
  | .sneImm x _ => [x]
  | .seReg x y => [x, y]
  | .sneReg x y => [x, y]
  | .addImm x _ => [x]
  | .ldReg _ y => [y]
  | .orReg x y => [x, y]
  | .andReg x y => [x, y]
  | .xorReg x y => [x, y]
  | .addReg x y => [x, y]
  | .sub x y => [x, y]
  | .subn x y => [x, y]
  | .shr _ y => [y]
  | .shl _ y => [y]
  | .jpV0 _ => [0x0#4]
  | .drw x y _ => [x, y]
  | .skp x => [x]
  | .sknp x => [x]
  | .ldDTVx x => [x]
  | .ldSTVx x => [x]
  | .addI x => [x]
  | .ldF x => [x]
  | .ldB x => [x]
  | .ldMemVx x => regsUpTo x
  | .cls => []
  | .ret => []
  | .sys _ => []
  | .jp _ => []
  | .call _ => []
  | .ldImm _ _ => []
  | .ldI _ => []
  | .rnd _ _ => []
  | .ldVxDT _ => []
  | .ldVxK _ => []
  | .ldVxMem _ => []

/-- The addresses an instruction stores to in state `s` (20_memory.md R44): Fx33 and Fx55 alone store. -/
def storedBytes (i : Instr) (s : State) : List Nat :=
  match i with
  | .ldB _ => addressesFrom s.base 3
  | .ldMemVx x => addressesFrom s.base (blockSize x)
  | _ => []

/-! ### What a sprite does, position by position (43_display.md R101 to R104) -/

/-- Whether a sprite has a 1-bit at row r, column c. -/
def bitSet (rows : List Byte) (r c : Nat) : Bool :=
  if r < rows.length ∧ c < 8 then (rows.getD r 0x00#8).getLsbD (7 - c) else false

/-- Whether the sprite with origin (ox, oy) has a 1-bit drawn at the grid position (X, Y), clipped. -/
def covers (rows : List Byte) (ox oy X Y : Nat) : Bool :=
  decide (ox ≤ X) && decide (oy ≤ Y) && bitSet rows (Y - oy) (X - ox)

/-- Whether some 1-bit of the sprite falls off the grid or on a set pixel. -/
def Collides (fb : Framebuffer) (rows : List Byte) (ox oy : Nat) : Prop :=
  ∃ r c, bitSet rows r c = true ∧ (64 ≤ ox + c ∨ 32 ≤ oy + r ∨ fb.pixel (ox + c) (oy + r) = true)

end Sys2Proof.Machine
end

