-- ==== Sys2Proof/Certificates/Slice0/Obligations.lean ====
section
/-! DEFINITION. The statements for the provers, each with the rules of spec/ it formalises or the sections it rests on.
Where a statement rests on a decision the spec marks as its own, its docstring names the decision. -/

open Sys2Proof Sys2Proof.Machine

/-! ## Encoding and decoding (30_encoding.md) -/

/-- Decoding the word, or the two bytes, of a well-formed instruction gives the instruction back: no bit of any operand
is dropped (30_encoding.md R61, R62, whose patterns the spec marks as general knowledge, D21). -/
def Obligations.DecodeOfEncode : Prop :=
  ∀ i : Instr, i.WellFormed →
    decode (encode i) = .ok i ∧ ∀ rest, decodeBytes (encodeBytes i ++ rest) = .ok (i, rest)

/-- Each word has one meaning: what decodes to an instruction is that instruction's word, and the instruction is
well-formed (R62). -/
def Obligations.EncodeOfDecode : Prop :=
  ∀ (w : Word) (i : Instr), decode w = .ok i → encode i = w ∧ i.WellFormed

/-- The illegal words are exactly those that R64 lists (the spec's decision D20: strict matching). -/
def Obligations.IllegalWordsAreTheListed : Prop :=
  ∀ w : Word, decode w = .error (.illegal w) ↔
    ((opField w = 0x5#4 ∨ opField w = 0x9#4) ∧ nField w ≠ 0x0#4) ∨
    (opField w = 0x8#4 ∧ nField w ∈ [0x8#4, 0x9#4, 0xA#4, 0xB#4, 0xC#4, 0xD#4, 0xF#4]) ∨
    (opField w = 0xE#4 ∧ kkField w ∉ [0x9E#8, 0xA1#8]) ∨
    (opField w = 0xF#4 ∧
      kkField w ∉ [0x07#8, 0x0A#8, 0x15#8, 0x18#8, 0x1E#8, 0x29#8, 0x33#8, 0x55#8, 0x65#8])

/-- A few words written out from the formats of R61, one of each, and the document's illegal word 0xFFFF. -/
def Obligations.SampleWordsDecode : Prop :=
  decode 0b0000000011101110#16 = .ok .ret ∧
  decode 0b0010001100000000#16 = .ok (.call 0x300#12) ∧
  decode 0b0110101001000010#16 = .ok (.ldImm 0xA#4 0x42#8) ∧
  decode 0b1000000100100111#16 = .ok (.subn 0x1#4 0x2#4) ∧
  decode 0b1101000100100101#16 = .ok (.drw 0x1#4 0x2#4 0x5#4) ∧
  decode 0b1110010110011110#16 = .ok (.skp 0x5#4) ∧
  decode 0b1111001001100101#16 = .ok (.ldVxMem 0x2#4) ∧
  decode 0b1111111111111111#16 = .error (.illegal 0xFFFF#16)

/-! ## The step (70_reset_and_hazards.md R139) -/

/-- A machine with no fault and no key wait runs the instruction that the two bytes at PC decode to; after it comes the
tick, unless the instruction raised a fault (R139; D30 for the faulting step). -/
def Obligations.StepRunsDecodedInstruction : Prop :=
  ∀ (s : State) (i : Instr), s.fault = none → s.halt = false → s.pc.toNat ≤ 0xFFE →
    decode (wordOfBytes (s.byteAt s.pc.toNat) (s.byteAt (s.pc.toNat + 1))) = .ok i →
    step s = endResult (exec i s) ∧
      ∀ t, exec i s = .next t → step s = .next (if t.fault = none then t.tick else t)

/-- While a key wait is pending a step does nothing at all: no fetch, no tick (60_exceptions.md R132). -/
def Obligations.HaltedStepChangesNothing : Prop :=
  ∀ s : State, s.fault = none → s.halt = true → step s = .next s

/-- A faulted machine takes no step; every other step answers a next state, and none is refused (60_exceptions.md R122,
70_reset_and_hazards.md R139; the spec's decision D22). -/
def Obligations.OnlyAFaultedMachineTakesNoStep : Prop :=
  ∀ s : State,
    (∀ r, s.fault = some r → step s = .fault (.machineFaulted r)) ∧ (s.fault = none → ∃ t, step s = .next t)

/-- A fetched word that matches no pattern raises IllegalOpcode with its address and itself, and changes nothing else
(30_encoding.md R64; 60_exceptions.md R119, R121; decisions D12, D20, D30). -/
def Obligations.IllegalWordRaises : Prop :=
  ∀ (s : State) (w : Word), s.fault = none → s.halt = false → s.fetchWord = .ok w →
    decode w = .error (.illegal w) →
    step s = .next { s with fault := some ⟨.illegalOpcode, s.pc, some w, none, none⟩ }

/-- A fetch reads the byte at PC into bits 15..8 and the byte at PC + 1 into bits 7..0, at any PC up to 0xFFE, odd ones
too; above, it fails with the first address that does not exist (0x1000 for a PC of 0xFFF, else PC: the greater of the
two), and the step raises OutOfBoundsAccess with it (20_memory.md R50, R52; the spec's decisions D10, D11). -/
def Obligations.FetchIsBigEndianAndBounded : Prop :=
  ∀ s : State,
    (s.pc.toNat ≤ 0xFFE → ∃ w, s.fetchWord = .ok w ∧
      w.toNat = 256 * (s.byteAt s.pc.toNat).toNat + (s.byteAt (s.pc.toNat + 1)).toNat) ∧
    (0xFFF ≤ s.pc.toNat → s.fault = none → s.halt = false →
      step s = .next
        { s with fault := some ⟨.outOfBoundsAccess, s.pc, none, some (max s.pc.toNat 0x1000), none⟩ })

/-- Faults are precise: a step that raises one changes FAULT and nothing else, and the record has the fields of its kind
and the address of the instruction that faulted (60_exceptions.md R119 to R121; decisions D12, D30, D34). -/
def Obligations.FaultingStepChangesOnlyFault : Prop :=
  ∀ (s t : State) (r : FaultRecord), step s = .next t → t.fault = some r →
    t = { s with fault := some r } ∧ r.pc = s.pc ∧ r.fits = true

/-- Every step keeps the invariant: MEM canonical and inside 0x000..0xFFF, TDIV below TIMER_DIVIDER, PC at most 0x10FE,
every stack slot at most 0x1000, FAULT fitting its kind (20_memory.md R43; 10_state.md R27, R31). -/
def Obligations.StepKeepsInv : Prop :=
  ∀ s t : State, s.Inv → step s = .next t → t.Inv

/-- The invariant holds right after reset. -/
def Obligations.ResetHasInv : Prop := State.reset.Inv

/-- Every sequence of the host's transactions, boots and key events and renders among the steps, keeps the invariant
(60_exceptions.md R133, R134). -/
def Obligations.HostRunKeepsInv : Prop :=
  ∀ (ops : List HostOp) (s t : State), s.Inv → hostRun ops s = .next t → t.Inv

/-- Every instruction answers a next state, and only the instructions that R119 lists can change FAULT
(60_exceptions.md R119: "No instruction not listed in the table raises an exception"). -/
def Obligations.OnlyListedInstructionsRaise : Prop :=
  ∀ (i : Instr) (s : State), ∃ t, exec i s = .next t ∧
    (t.fault = s.fault ∨
      match i with
      | .sys _ | .call _ | .ret | .drw _ _ _ | .ldB _ | .ldMemVx _ | .ldVxMem _ | .skp _ | .sknp _ => True
      | _ => False)

/-! ## Reset and boot (70_reset_and_hazards.md R135 to R137) -/

/-- What reset leaves: PC = 0x200 and the font's place 0x000..0x04F, which the document gives; the font's bytes are D21, and
every other value is the spec's own decision (D2 to D8, D22). The reset state is boot with no image and the default
parameters. -/
def Obligations.ResetIsTheBootState : Prop :=
  bootWith defaultConfig 0 [] = .next State.reset ∧
  State.reset.pc = 0x200#16 ∧
  (∀ a, a < 80 → State.reset.byteAt a = fontTable.getD a 0) ∧
  (∀ a, 80 ≤ a → State.reset.byteAt a = 0) ∧
  (∀ r, State.reset.getV r = 0) ∧ State.reset.i = 0 ∧ State.reset.sd = 0 ∧
  (∀ j : Fin 16, State.reset.stack[j] = 0) ∧
  State.reset.dt = 0 ∧ State.reset.st = 0 ∧ State.reset.tdiv = 0 ∧
  State.reset.halt = false ∧ State.reset.haltReg = 0 ∧
  (∀ x y, State.reset.fb.pixel x y = false) ∧ State.reset.dirty = false ∧
  (∀ k, State.reset.keyDown k = false) ∧ State.reset.fault = none

/-- Boot from any state of the machine: an image of at most 3584 bytes stands verbatim at 0x200, the font
that the machine has as its parameter at 0x000 (10_state.md R17), every other byte is MEM_FILL, every other part is at its
boot value, no parameter changes, and the next step fetches at exactly 0x200 (R135, R137; decisions D2 to D8, D33). -/
def Obligations.BootLoadsTheImage : Prop :=
  ∀ (s : State) (image : List Byte), image.length ≤ 3584 →
    ∃ t, s.boot image = .next t ∧
      (∀ (a : Nat) (h : a < 80), t.byteAt a = s.config.font[a]) ∧
      (∀ a, 80 ≤ a → a < 0x200 → t.byteAt a = s.config.memFill) ∧
      (∀ k, k < image.length → t.byteAt (0x200 + k) = image.getD k 0) ∧
      (∀ a, 0x200 + image.length ≤ a → a < 4096 → t.byteAt a = s.config.memFill) ∧
      t.fetchWord = .ok (wordOfBytes (t.byteAt 0x200) (t.byteAt 0x201)) ∧
      t = { State.reset with mem := t.mem, config := s.config, draws := s.draws }

/-- Boot rejects a longer image before any byte is written, and leaves no machine (R136; the spec's decision D32); before
the first boot no other operation has a transition (R138; log entry 9 for the key event and render). -/
def Obligations.BootRejectsALargeImage : Prop :=
  (∀ (s : State) (image : List Byte), 3584 < image.length →
    s.boot image = .fault (.loadTooLarge image.length)) ∧
  ∀ (c : Config) (op : HostOp), (∀ image, op ≠ .boot image) → blockOp op (.unbooted c) = .fault .notBooted

/-! ## Timers (44_keypad_timers.md R113 to R116) -/

/-- Both timers count down together once every TIMER_DIVIDER ticks, and stay at 0: after k ticks from TDIV = 0 each is
less by k / TIMER_DIVIDER, and TDIV is the remainder (R116; the spec's decision D9). -/
def Obligations.TimersCountDownEveryNthTick : Prop :=
  ∀ (k : Nat) (s : State), 1 ≤ s.config.timerDivider → s.tdiv = 0 →
    (ticks k s).dt.toNat = s.dt.toNat - k / s.config.timerDivider ∧
    (ticks k s).st.toNat = s.st.toNat - k / s.config.timerDivider ∧
    (ticks k s).tdiv = k % s.config.timerDivider

/-- A tick changes TDIV, DT and ST only: below TIMER_DIVIDER it counts in TDIV, at TIMER_DIVIDER it starts over and each
timer that is not 0 loses 1 (R116; the spec's decision D9). -/
def Obligations.TickChangesOnlyTimers : Prop :=
  ∀ s : State,
    s.tick = { s with tdiv := s.tick.tdiv, dt := s.tick.dt, st := s.tick.st } ∧
    if s.tdiv + 1 = s.config.timerDivider then
      s.tick.tdiv = 0 ∧ s.tick.dt.toNat = s.dt.toNat - 1 ∧ s.tick.st.toNat = s.st.toNat - 1
    else s.tick.tdiv = s.tdiv + 1 ∧ s.tick.dt = s.dt ∧ s.tick.st = s.st

/-- LD Vx, DT; LD DT, Vx; LD ST, Vx: the register and the timer, and nothing else but PC. The value read is DT before this
step's tick, which comes after exec (R113 to R115). -/
def Obligations.TimerRegisterTransfers : Prop :=
  ∀ (x : Reg) (s : State),
    (∃ t, exec (.ldVxDT x) s = .next t ∧ t.getV x = s.dt ∧ t.pc = s.pc + 2#16 ∧ Keeps { regs := [x] } s t) ∧
    (∃ t, exec (.ldDTVx x) s = .next t ∧ t.dt = s.getV x ∧ t.pc = s.pc + 2#16 ∧ Keeps { delay := true } s t) ∧
    (∃ t, exec (.ldSTVx x) s = .next t ∧ t.st = s.getV x ∧ t.pc = s.pc + 2#16 ∧ Keeps { sound := true } s t)

/-! ## Keypad (44_keypad_timers.md R110 to R112, R118) -/

/-- SKP and SKNP with Vx at most 15 skip on the level of that key and write nothing but PC; with Vx above 15 they raise
KeyIndexOutOfRange with Vx and change nothing else (R110, R111; the spec's decision D15). -/
def Obligations.KeySkips : Prop :=
  ∀ (x : Reg) (s : State),
    ((s.getV x).toNat ≤ 15 →
      (∃ t, exec (.skp x) s = .next t ∧
        t.pc = s.pc + (if s.keyDown ((s.getV x).setWidth 4) = true then 4#16 else 2#16) ∧ Keeps {} s t) ∧
      (∃ t, exec (.sknp x) s = .next t ∧
        t.pc = s.pc + (if s.keyDown ((s.getV x).setWidth 4) = false then 4#16 else 2#16) ∧ Keeps {} s t)) ∧
    (15 < (s.getV x).toNat →
      exec (.skp x) s = .next { s with fault := some ⟨.keyIndexOutOfRange, s.pc, none, none, some (s.getV x)⟩ } ∧
      exec (.sknp x) s = .next { s with fault := some ⟨.keyIndexOutOfRange, s.pc, none, none, some (s.getV x)⟩ })

/-- LD Vx, K sets HALT and HALT_REG and advances PC by 2; Vx is not written by this step (R112). -/
def Obligations.KeyWaitLatches : Prop :=
  ∀ (x : Reg) (s : State), ∃ t, exec (.ldVxK x) s = .next t ∧
    t.halt = true ∧ t.haltReg = x ∧ t.pc = s.pc + 2#16 ∧ Keeps { latch := true } s t

/-- A key event updates its key; a press of a released key while HALT writes its index into V[HALT_REG] and clears HALT;
a release, a repeated press, or any event while not halted does no more; and nothing else of the machine changes
(R118; the spec's decision D29). -/
def Obligations.KeyEventEffect : Prop :=
  ∀ (s : State) (k : Key) (pressed : Bool),
    (∀ j, (s.handleKeyEvent k pressed).keyDown j = if j = k then pressed else s.keyDown j) ∧
    (if s.halt = true ∧ pressed = true ∧ s.keyDown k = false then
      (s.handleKeyEvent k pressed).halt = false ∧
      ∀ r, (s.handleKeyEvent k pressed).getV r = if r = s.haltReg then k.setWidth 8 else s.getV r
    else (s.handleKeyEvent k pressed).halt = s.halt ∧ (s.handleKeyEvent k pressed).v = s.v) ∧
    s.handleKeyEvent k pressed =
      { s with v := (s.handleKeyEvent k pressed).v, halt := (s.handleKeyEvent k pressed).halt,
               key := (s.handleKeyEvent k pressed).key }

/-- The key wait from end to end: the step that runs LD Vx, K completes with its tick; every later step changes nothing;
a press of a held key does not end the wait; a press of a released key k does, with Vx = k, and the next step runs on at
the instruction after (R112, R118, 70_reset_and_hazards.md R139, R141). -/
def Obligations.KeyWaitEndsOnKeyDown : Prop :=
  ∀ (s : State) (x : Reg) (k : Key), s.fault = none → s.halt = false →
    s.fetchWord = .ok (encode (.ldVxK x)) →
    ∃ t, step s = .next t ∧ t.halt = true ∧ t.pc = s.pc + 2#16 ∧ t.tdiv = s.tick.tdiv ∧ t.dt = s.tick.dt ∧
      step t = .next t ∧
      (s.keyDown k = true → (t.handleKeyEvent k true).halt = true ∧ (t.handleKeyEvent k true).getV x = s.getV x) ∧
      (s.keyDown k = false → (t.handleKeyEvent k true).halt = false ∧ (t.handleKeyEvent k true).getV x = k.setWidth 8 ∧
        (t.handleKeyEvent k true).pc = s.pc + 2#16 ∧ (t.handleKeyEvent k true).running = true)

/-! ## The host's reads (60_exceptions.md R133) -/

/-- Render answers FB and clears DIRTY if DIRTY was set, else nothing; it changes DIRTY only, and a second render answers
nothing (R133; the spec's decision D36). The buzzer is on while ST is not 0 (D27). -/
def Obligations.RenderConsumesDirty : Prop :=
  ∀ s : State,
    s.render.1 = (if s.dirty = true then some s.fb else none) ∧
    s.render.2 = { s with dirty := false } ∧
    s.render.2.render.1 = none ∧
    (s.buzzer = true ↔ s.st ≠ 0) ∧
    ∀ (x : Fin 64) (y : Fin 32), s.getPixel x y = s.fb[y][x]

/-- A step of an idle machine, whose word at PC is a jump to itself, changes only TDIV, DT and ST, by the tick, and the
machine is idle again (70_reset_and_hazards.md R140; the spec's decision D37). -/
def Obligations.IdleStepOnlyTicks : Prop :=
  ∀ s : State, s.fault = none → s.halt = false → s.idle = true →
    ∃ t, step s = .next t ∧ t.idle = true ∧
      t = { s with tdiv := s.tick.tdiv, dt := s.tick.dt, st := s.tick.st }

/-! ## Control flow (40_control_flow.md) -/

/-- SYS nnn always raises UnsupportedInstruction with PC and the fetched word, and no state changes but FAULT. Every word
of the 0-group but 00E0 and 00EE is one, 0x0000 among them (R70). -/
def Obligations.SysRaisesUnsupported : Prop :=
  ∀ w : Word, opField w = 0x0#4 → w ≠ 0x00E0#16 → w ≠ 0x00EE#16 →
    decode w = .ok (.sys (nnnField w)) ∧
    ∀ s : State, exec (.sys (nnnField w)) s =
      .next { s with fault := some ⟨.unsupportedInstruction, s.pc, some w, none, none⟩ }

/-- JP nnn sets PC to nnn and changes nothing else (R72). -/
def Obligations.JumpSetsPc : Prop :=
  ∀ (nnn : Addr12) (s : State), ∃ t, exec (.jp nnn) s = .next t ∧ t.pc.toNat = nnn.toNat ∧ Keeps {} s t

/-- JP V0, nnn sets PC to nnn + V0, which never wraps, and changes nothing else (R78). -/
def Obligations.IndexedJumpSetsPc : Prop :=
  ∀ (nnn : Addr12) (s : State), ∃ t, exec (.jpV0 nnn) s = .next t ∧
    t.pc.toNat = nnn.toNat + (s.getV 0x0#4).toNat ∧ Keeps {} s t

/-- CALL nnn with fewer than 16 frames stores PC + 2 in the slot SD, leaves every other slot, counts the frame and jumps
(R73; the spec's decision D4). -/
def Obligations.CallPushesReturnAddress : Prop :=
  ∀ (nnn : Addr12) (s : State) (h : s.sd.val < 16), ∃ t, exec (.call nnn) s = .next t ∧
    t.stack[s.sd.val] = s.pc + 2#16 ∧ (∀ j : Fin 16, j.val ≠ s.sd.val → t.stack[j] = s.stack[j]) ∧
    t.sd.val = s.sd.val + 1 ∧ t.pc.toNat = nnn.toNat ∧ Keeps { stack := true } s t

/-- RET with a frame active takes PC from the most recent slot, uncounts its frame and leaves every slot (R71; the spec's
decision D4). -/
def Obligations.RetPopsReturnAddress : Prop :=
  ∀ (s : State) (h : 0 < s.sd.val), ∃ t, exec .ret s = .next t ∧
    t.pc = s.stack[s.sd.val - 1] ∧ t.sd.val = s.sd.val - 1 ∧ t.stack = s.stack ∧ Keeps { stack := true } s t

/-- CALL at SD = 16 raises StackOverflow and RET at SD = 0 raises StackUnderflow, and neither changes anything else (R71,
R73; the spec's decision D4). -/
def Obligations.StackFaults : Prop :=
  ∀ (nnn : Addr12) (s : State),
    (s.sd.val = 16 → exec (.call nnn) s = .next { s with fault := some ⟨.stackOverflow, s.pc, none, none, none⟩ }) ∧
    (s.sd.val = 0 → exec .ret s = .next { s with fault := some ⟨.stackUnderflow, s.pc, none, none, none⟩ })

/-- A RET right after a CALL resumes at PC + 2 with the depth before the call (R73's example; the spec's decision D4). -/
def Obligations.RetAfterCallResumes : Prop :=
  ∀ (nnn : Addr12) (s : State), s.sd.val < 16 → ∃ t u, exec (.call nnn) s = .next t ∧ exec .ret t = .next u ∧
    u.pc = s.pc + 2#16 ∧ u.sd = s.sd

/-- SE and SNE with an immediate: the words 3xkk and 4xkk; PC + 4 when the condition holds, else PC + 2; no register, no
flag, no memory is written and nothing is raised (R74, R75). -/
def Obligations.SkipOnImmediate : Prop :=
  ∀ (x : Reg) (kk : Byte),
    decode (wordFXK 0x3#4 x kk) = .ok (.seImm x kk) ∧ decode (wordFXK 0x4#4 x kk) = .ok (.sneImm x kk) ∧
    ∀ s : State,
      (∃ t, exec (.seImm x kk) s = .next t ∧
        t.pc = s.pc + (if s.getV x = kk then 4#16 else 2#16) ∧ Keeps {} s t) ∧
      (∃ t, exec (.sneImm x kk) s = .next t ∧
        t.pc = s.pc + (if s.getV x ≠ kk then 4#16 else 2#16) ∧ Keeps {} s t)

/-- SE and SNE with two registers: the words 5xy0 and 9xy0, any other low nibble illegal; with x = y SE always skips and
SNE never does; nothing is written but PC (R76, R77). -/
def Obligations.SkipOnRegisters : Prop :=
  ∀ x y : Reg,
    decode (wordFXY 0x5#4 x y 0x0#4) = .ok (.seReg x y) ∧ decode (wordFXY 0x9#4 x y 0x0#4) = .ok (.sneReg x y) ∧
    (∀ n : Nibble, n ≠ 0x0#4 →
      decode (wordFXY 0x5#4 x y n) = .error (.illegal (wordFXY 0x5#4 x y n)) ∧
      decode (wordFXY 0x9#4 x y n) = .error (.illegal (wordFXY 0x9#4 x y n))) ∧
    ∀ s : State,
      (∃ t, exec (.seReg x y) s = .next t ∧
        t.pc = s.pc + (if s.getV x = s.getV y then 4#16 else 2#16) ∧ Keeps {} s t) ∧
      (∃ t, exec (.sneReg x y) s = .next t ∧
        t.pc = s.pc + (if s.getV x ≠ s.getV y then 4#16 else 2#16) ∧ Keeps {} s t)

/-! ## Loads and ALU (41_alu.md) -/

/-- LD Vx, kk and LD Vx, Vy: the words 6xkk and 8xy0; Vx is written, as an ordinary register if it is VF, and nothing
else but PC (R81, R83). -/
def Obligations.RegisterLoads : Prop :=
  (∀ (x : Reg) (kk : Byte), decode (wordFXK 0x6#4 x kk) = .ok (.ldImm x kk) ∧
    ∀ s : State, ∃ t, exec (.ldImm x kk) s = .next t ∧
      t.getV x = kk ∧ t.pc = s.pc + 2#16 ∧ Keeps { regs := [x] } s t) ∧
  ∀ x y : Reg, decode (wordFXY 0x8#4 x y 0x0#4) = .ok (.ldReg x y) ∧
    ∀ s : State, ∃ t, exec (.ldReg x y) s = .next t ∧
      t.getV x = s.getV y ∧ t.pc = s.pc + 2#16 ∧ Keeps { regs := [x] } s t

/-- ADD Vx, kk writes the sum modulo 256 and no flag: VF changes only if it is Vx (R82; the spec's decision D19). -/
def Obligations.AddImmediateHasNoFlag : Prop :=
  ∀ (x : Reg) (kk : Byte) (s : State), ∃ t, exec (.addImm x kk) s = .next t ∧
    (t.getV x).toNat = ((s.getV x).toNat + kk.toNat) % 256 ∧ t.pc = s.pc + 2#16 ∧ Keeps { regs := [x] } s t

/-- OR, AND and XOR, bit by bit, with no flag: VF changes only if it is Vx (R84 to R86; the spec's decision D18). -/
def Obligations.BitwiseOperations : Prop :=
  ∀ (x y : Reg) (s : State),
    (∃ t, exec (.orReg x y) s = .next t ∧
      (∀ j, (t.getV x).getLsbD j = ((s.getV x).getLsbD j || (s.getV y).getLsbD j)) ∧
      t.pc = s.pc + 2#16 ∧ Keeps { regs := [x] } s t) ∧
    (∃ t, exec (.andReg x y) s = .next t ∧
      (∀ j, (t.getV x).getLsbD j = ((s.getV x).getLsbD j && (s.getV y).getLsbD j)) ∧
      t.pc = s.pc + 2#16 ∧ Keeps { regs := [x] } s t) ∧
    (∃ t, exec (.xorReg x y) s = .next t ∧
      (∀ j, (t.getV x).getLsbD j = ((s.getV x).getLsbD j ^^ (s.getV y).getLsbD j)) ∧
      t.pc = s.pc + 2#16 ∧ Keeps { regs := [x] } s t)

/-- ADD Vx, Vy: the sum modulo 256 into Vx, then the carry of the exact sum into VF (which ends holding the carry if it
is Vx); under Q_ADD_FLAG_SELF the carry is that of Vx + Vx (R87; the spec's decision D31). -/
def Obligations.AddWithCarry : Prop :=
  ∀ (x y : Reg) (s : State), ∃ t, exec (.addReg x y) s = .next t ∧
    (x ≠ Reg.flag → (t.getV x).toNat = ((s.getV x).toNat + (s.getV y).toNat) % 256) ∧
    (s.config.qAddFlagSelf = false →
      t.getV Reg.flag = if 255 < (s.getV x).toNat + (s.getV y).toNat then 1 else 0) ∧
    (s.config.qAddFlagSelf = true →
      t.getV Reg.flag = if 255 < (s.getV x).toNat + (s.getV x).toNat then 1 else 0) ∧
    t.pc = s.pc + 2#16 ∧ Keeps { regs := [x, Reg.flag] } s t

/-- SUB and SUBN: the wrapped difference into Vx, then the no-borrow flag into VF, which is 1 exactly when the minuend is
at least the subtrahend; under Q_SUB_FLAG_STRICT, when it is greater (R88, R89; C5; the spec's decisions D28, D31). -/
def Obligations.SubtractWithNoBorrow : Prop :=
  ∀ (x y : Reg) (s : State),
    (∃ t, exec (.sub x y) s = .next t ∧
      (x ≠ Reg.flag → ((t.getV x).toNat : Int) = ((s.getV x).toNat - (s.getV y).toNat : Int) % 256) ∧
      (s.config.qSubFlagStrict = false →
        t.getV Reg.flag = if (s.getV y).toNat ≤ (s.getV x).toNat then 1 else 0) ∧
      (s.config.qSubFlagStrict = true →
        t.getV Reg.flag = if (s.getV y).toNat < (s.getV x).toNat then 1 else 0) ∧
      t.pc = s.pc + 2#16 ∧ Keeps { regs := [x, Reg.flag] } s t) ∧
    (∃ t, exec (.subn x y) s = .next t ∧
      (x ≠ Reg.flag → ((t.getV x).toNat : Int) = ((s.getV y).toNat - (s.getV x).toNat : Int) % 256) ∧
      (s.config.qSubFlagStrict = false →
        t.getV Reg.flag = if (s.getV x).toNat ≤ (s.getV y).toNat then 1 else 0) ∧
      (s.config.qSubFlagStrict = true →
        t.getV Reg.flag = if (s.getV x).toNat < (s.getV y).toNat then 1 else 0) ∧
      t.pc = s.pc + 2#16 ∧ Keeps { regs := [x, Reg.flag] } s t)

/-- SHR and SHL: the old Vy shifted by one goes into Vy and Vx, then the bit shifted out into VF, which ends holding the
bit if it is Vx or Vy (R90, R91; C4; the spec's decision D28; which word shifts which way is D21). -/
def Obligations.ShiftsWriteBothRegisters : Prop :=
  ∀ (x y : Reg) (s : State),
    (∃ t, exec (.shr x y) s = .next t ∧
      (x ≠ Reg.flag → (t.getV x).toNat = (s.getV y).toNat / 2) ∧
      (y ≠ Reg.flag → (t.getV y).toNat = (s.getV y).toNat / 2) ∧
      (t.getV Reg.flag).toNat = (s.getV y).toNat % 2 ∧
      t.pc = s.pc + 2#16 ∧ Keeps { regs := [y, x, Reg.flag] } s t) ∧
    (∃ t, exec (.shl x y) s = .next t ∧
      (x ≠ Reg.flag → (t.getV x).toNat = (s.getV y).toNat * 2 % 256) ∧
      (y ≠ Reg.flag → (t.getV y).toNat = (s.getV y).toNat * 2 % 256) ∧
      (t.getV Reg.flag).toNat = (s.getV y).toNat / 128 ∧
      t.pc = s.pc + 2#16 ∧ Keeps { regs := [y, x, Reg.flag] } s t)

/-- RND Vx, kk takes the next draw of the oracle, whatever byte it is, and writes it masked: only bits set in kk can be
1, and kk = 0 gives 0 (R92; the spec's decision D25; the draw is a free value, log entry 3). -/
def Obligations.RandomIsMasked : Prop :=
  ∀ (x : Reg) (kk : Byte) (s : State), ∃ t, exec (.rnd x kk) s = .next t ∧
    t.getV x = Config.rnd s.draws &&& kk ∧ (∀ j, kk.getLsbD j = false → (t.getV x).getLsbD j = false) ∧
    (kk = 0 → t.getV x = 0) ∧ t.draws = s.draws + 1 ∧
    t.pc = s.pc + 2#16 ∧ Keeps { regs := [x], draws := true } s t

/-! ## Address register and memory (42_index_memory.md) -/

/-- LD I, nnn: the word Annn; I is written and nothing else but PC (R94). -/
def Obligations.IndexLoad : Prop :=
  ∀ nnn : Addr12, decode (wordFA 0xA#4 nnn) = .ok (.ldI nnn) ∧
    ∀ s : State, ∃ t, exec (.ldI nnn) s = .next t ∧
      t.i.toNat = nnn.toNat ∧ t.pc = s.pc + 2#16 ∧ Keeps { index := true } s t

/-- ADD I, Vx wraps I at 16 bits, raises nothing and writes no flag (R95; the spec's decision D13). LD F, Vx sets I to five
times the glyph: the low nibble of Vx, or all of Vx in the raw mode (R96; the spec's decision D14). -/
def Obligations.IndexArithmetic : Prop :=
  ∀ (x : Reg) (s : State),
    (∃ t, exec (.addI x) s = .next t ∧ t.i.toNat = (s.i.toNat + (s.getV x).toNat) % 65536 ∧
      t.pc = s.pc + 2#16 ∧ Keeps { index := true } s t) ∧
    (∃ t, exec (.ldF x) s = .next t ∧
      (s.config.fontIndexMode = .lowNibble → t.i.toNat = 5 * ((s.getV x).toNat % 16)) ∧
      (s.config.fontIndexMode = .raw → t.i.toNat = 5 * (s.getV x).toNat) ∧
      t.pc = s.pc + 2#16 ∧ Keeps { index := true } s t)

/-- LD B, Vx with its three bytes inside memory stores the hundreds, tens and ones of Vx at I, I + 1 and I + 2, and
changes no other byte and no register (R97; the spec's decision D12). -/
def Obligations.BcdStore : Prop :=
  ∀ (x : Reg) (s : State), s.i.toNat + 2 ≤ 0xFFF → ∃ t, exec (.ldB x) s = .next t ∧
    (t.byteAt s.base).toNat = (s.getV x).toNat / 100 ∧
    (t.byteAt (s.base + 1)).toNat = (s.getV x).toNat / 10 % 10 ∧
    (t.byteAt (s.base + 2)).toNat = (s.getV x).toNat % 10 ∧
    t.pc = s.pc + 2#16 ∧ Keeps { bytes := addressesFrom s.base 3 } s t

/-- LD [I], Vx with its bytes inside memory stores V0..Vx at I..I + x and changes no other byte and no register; I is
unchanged, or I + x + 1 modulo 65536 under Q_INDEX_INCREMENT (R98; the spec's decisions D12, D31). -/
def Obligations.BlockStore : Prop :=
  ∀ (x : Reg) (s : State), s.i.toNat + x.toNat ≤ 0xFFF → ∃ t, exec (.ldMemVx x) s = .next t ∧
    (∀ r : Reg, r.toNat ≤ x.toNat → t.byteAt (s.base + r.toNat) = s.getV r) ∧
    t.i.toNat = (if s.config.qIndexIncrement = true then (s.i.toNat + x.toNat + 1) % 65536 else s.i.toNat) ∧
    t.pc = s.pc + 2#16 ∧
    Keeps { bytes := addressesFrom s.base (blockSize x), index := s.config.qIndexIncrement } s t

/-- LD Vx, [I] with its bytes inside memory loads V0..Vx from I..I + x, VF as an ordinary register, and changes no other
register and no byte; I as for the store (R99; the spec's decisions D12, D31). -/
def Obligations.BlockLoad : Prop :=
  ∀ (x : Reg) (s : State), s.i.toNat + x.toNat ≤ 0xFFF → ∃ t, exec (.ldVxMem x) s = .next t ∧
    (∀ r : Reg, r.toNat ≤ x.toNat → t.getV r = s.byteAt (s.base + r.toNat)) ∧
    t.i.toNat = (if s.config.qIndexIncrement = true then (s.i.toNat + x.toNat + 1) % 65536 else s.i.toNat) ∧
    t.pc = s.pc + 2#16 ∧
    Keeps { regs := regsUpTo x, index := s.config.qIndexIncrement } s t

/-- A block stored over the next instruction is what the next fetch reads: V0 and V1 stored at PC + 2 are its word
(20_memory.md R56). -/
def Obligations.StoredCodeIsFetched : Prop :=
  ∀ (x : Reg) (s : State), 1 ≤ x.toNat → s.i.toNat = s.pc.toNat + 2 → s.i.toNat + x.toNat ≤ 0xFFF →
    ∃ t, exec (.ldMemVx x) s = .next t ∧
      t.fetchWord = .ok (wordOfBytes (s.getV 0x0#4) (s.getV 0x1#4))

/-- A transfer whose range reaches above 0xFFF (DRW of n > 0 rows, LD B, LD [I], LD Vx, [I]) raises OutOfBoundsAccess with
the lowest failing address and changes nothing else: no byte, no register, no pixel (20_memory.md R48; the spec's
decision D12). -/
def Obligations.TransferOutOfBoundsRaises : Prop :=
  ∀ (s : State) (i : Instr) (count : Nat),
    (match i with
      | .drw _ _ n => count = n.toNat
      | .ldB _ => count = 3
      | .ldMemVx x => count = x.toNat + 1
      | .ldVxMem x => count = x.toNat + 1
      | _ => False) →
    1 ≤ count → 0xFFF < s.i.toNat + count - 1 →
    ∃ addr, exec i s = .next { s with fault := some ⟨.outOfBoundsAccess, s.pc, none, some addr, none⟩ } ∧
      s.i.toNat ≤ addr ∧ addr < s.i.toNat + count ∧ 0xFFF < addr ∧
      ∀ k, k < count → 0xFFF < s.i.toNat + k → addr ≤ s.i.toNat + k

/-! ## Display (43_display.md) -/

/-- CLS: the word 00E0; every pixel is off, DIRTY is set even on a blank screen, and nothing else changes but PC
(R100). -/
def Obligations.ClearScreen : Prop :=
  decode 0x00E0#16 = .ok .cls ∧
  ∀ s : State, ∃ t, exec .cls s = .next t ∧
    (∀ X Y, X < 64 → Y < 32 → t.fb.pixel X Y = false) ∧ t.dirty = true ∧
    t.pc = s.pc + 2#16 ∧ Keeps { display := true } s t

/-- DRW whose rows are inside memory, n = 0 with any I, completes: DIRTY is set, VF is 0 or 1, and only VF, FB, DIRTY and
PC change; with n = 0 no pixel changes and VF is 0 (R101, R106, R109; the spec's decision D16). -/
def Obligations.DrawCompletes : Prop :=
  ∀ (x y : Reg) (n : Nibble) (s : State), n = 0 ∨ s.i.toNat + n.toNat ≤ 0x1000 →
    ∃ t, exec (.drw x y n) s = .next t ∧ t.dirty = true ∧
      (t.getV Reg.flag = 0 ∨ t.getV Reg.flag = 1) ∧
      (n = 0 → t.fb = s.fb ∧ t.getV Reg.flag = 0) ∧
      t.pc = s.pc + 2#16 ∧ Keeps { regs := [Reg.flag], display := true } s t

/-- The pixel rule, for a sprite that lies on the grid: byte r of the sprite is at I + r and is drawn on row oy + r, its bit
7 - c at column ox + c; a 1-bit toggles its pixel and collides exactly if the pixel was set, a 0-bit does neither, and no
other pixel changes (R102, R103). -/
def Obligations.SpriteBitsToggleTheirPixels : Prop :=
  ∀ (x y : Reg) (n : Nibble) (s : State),
    (s.getV x).toNat + 8 ≤ 64 → (s.getV y).toNat + n.toNat ≤ 32 → s.i.toNat + n.toNat ≤ 0x1000 →
    ∃ t, exec (.drw x y n) s = .next t ∧
      (∀ r c, r < n.toNat → c < 8 → t.fb.pixel ((s.getV x).toNat + c) ((s.getV y).toNat + r) =
        (s.fb.pixel ((s.getV x).toNat + c) ((s.getV y).toNat + r) ^^ (s.byteAt (s.base + r)).getLsbD (7 - c))) ∧
      (∀ X Y, X < 64 → Y < 32 →
        ¬((s.getV x).toNat ≤ X ∧ X < (s.getV x).toNat + 8 ∧ (s.getV y).toNat ≤ Y ∧ Y < (s.getV y).toNat + n.toNat) →
        t.fb.pixel X Y = s.fb.pixel X Y) ∧
      (t.getV Reg.flag = 1 ↔ ∃ r c, r < n.toNat ∧ c < 8 ∧ (s.byteAt (s.base + r)).getLsbD (7 - c) = true ∧
        s.fb.pixel ((s.getV x).toNat + c) ((s.getV y).toNat + r) = true)

/-- The default, clipped drawing: exactly the grid positions under a 1-bit toggle, the most significant bit leftmost and
each byte one row below the last, from the origin the old Vx and Vy give; VF is 1 exactly when a 1-bit fell off the grid
or on a set pixel (R101 to R104; the spec's decision D17). -/
def Obligations.ClippedDrawTogglesAndCollides : Prop :=
  ∀ (x y : Reg) (n : Nibble) (s : State), s.config.qDrawWrap = false →
    n = 0 ∨ s.i.toNat + n.toNat ≤ 0x1000 →
    ∃ t, exec (.drw x y n) s = .next t ∧
      (∀ X Y, X < 64 → Y < 32 → t.fb.pixel X Y =
        (s.fb.pixel X Y ^^ covers (s.spriteRows n) (s.getV x).toNat (s.getV y).toNat X Y)) ∧
      (t.getV Reg.flag = 1 ↔ Collides s.fb (s.spriteRows n) (s.getV x).toNat (s.getV y).toNat) ∧
      (s.spriteRows n).length = n.toNat ∧
      ∀ r, r < n.toNat → (s.spriteRows n).getD r 0 = s.byteAt (s.base + r)

/-- Under Q_DRAW_WRAP every position is taken modulo the screen's size: a pixel toggles exactly when a 1-bit lands on it,
and VF is 1 exactly when one lands on a set pixel (R105; the spec's decision D31). -/
def Obligations.WrappedDrawTogglesAndCollides : Prop :=
  ∀ (x y : Reg) (n : Nibble) (s : State), s.config.qDrawWrap = true →
    n = 0 ∨ s.i.toNat + n.toNat ≤ 0x1000 →
    ∃ t, exec (.drw x y n) s = .next t ∧
      (∀ X Y, X < 64 → Y < 32 → (t.fb.pixel X Y ≠ s.fb.pixel X Y ↔
        ∃ r c, bitSet (s.spriteRows n) r c = true ∧
          ((s.getV x).toNat + c) % 64 = X ∧ ((s.getV y).toNat + r) % 32 = Y)) ∧
      (t.getV Reg.flag = 1 ↔
        ∃ r c, bitSet (s.spriteRows n) r c = true ∧
          s.fb.pixel (((s.getV x).toNat + c) % 64) (((s.getV y).toNat + r) % 32) = true)

/-- Drawing a sprite twice at one place restores the whole screen, and if the sprite has a 1-bit, at least one of the two
draws reports a collision (R108; C3): clipped, where a 1-bit off the grid collides in both draws (the spec's decision D17),
or wrapped under Q_DRAW_WRAP (R105; the spec's decision D31), and with n = 0, which draws nothing whatever I is (R106; the
spec's decision D16). Between the draws VF may be given any value `b`; where VF itself gives the origin, it is given its old
value, for the first draw overwrote it. -/
def Obligations.DrawingTwiceRestores : Prop :=
  ∀ (x y : Reg) (n : Nibble) (s : State) (b : Byte), (x = Reg.flag ∨ y = Reg.flag → b = s.getV Reg.flag) →
    n = 0 ∨ s.i.toNat + n.toNat ≤ 0x1000 →
    ∃ t u, exec (.drw x y n) s = .next t ∧ exec (.drw x y n) (t.setV Reg.flag b) = .next u ∧ u.fb = s.fb ∧
      ((∃ r c, bitSet (s.spriteRows n) r c = true) → t.getV Reg.flag = 1 ∨ u.getV Reg.flag = 1)

/-! ## Who writes and who reads what (10_state.md R21, R28 to R42) -/

/-- Every instruction writes at most the general registers that R21 lists for it, and stores at most to the bytes that
20_memory.md R44 gives it, in every case, faults among them. -/
def Obligations.OnlyListedRegistersAndBytesChange : Prop :=
  ∀ (i : Instr) (s t : State), exec i s = .next t →
    (∀ r, r ∉ writtenRegs i → t.getV r = s.getV r) ∧
    ∀ a, a ∉ storedBytes i s → t.byteAt a = s.byteAt a

/-- Only CALL and RET change SD or STACK, only CLS and DRW FB or DIRTY, only LD Vx, K the halt latch, only LD DT and LD ST
their timers, and no instruction changes TDIV, KEY or a parameter (10_state.md R28, R31, R33, R36, R37, R39, R42). -/
def Obligations.ControlStateWriters : Prop :=
  ∀ (i : Instr) (s t : State), exec i s = .next t →
    ((t.sd ≠ s.sd ∨ t.stack ≠ s.stack) → i = .ret ∨ ∃ nnn, i = .call nnn) ∧
    ((t.fb ≠ s.fb ∨ t.dirty ≠ s.dirty) → i = .cls ∨ ∃ x y n, i = .drw x y n) ∧
    ((t.halt ≠ s.halt ∨ t.haltReg ≠ s.haltReg) → ∃ x, i = .ldVxK x) ∧
    (t.dt ≠ s.dt → ∃ x, i = .ldDTVx x) ∧ (t.st ≠ s.st → ∃ x, i = .ldSTVx x) ∧
    t.tdiv = s.tdiv ∧ t.key = s.key ∧ t.config = s.config

/-- A register that an instruction does not read (R21) influences nothing: whatever value it holds, the next state is
the same, but for that register itself where the instruction leaves it. -/
def Obligations.UnreadRegistersInfluenceNothing : Prop :=
  ∀ (i : Instr) (s : State) (r : Reg) (b : Byte), r ∉ readRegs i →
    ∃ t u, exec i s = .next t ∧ exec i (s.setV r b) = .next u ∧ (u = t ∨ u = t.setV r b)

/-- No step reads ST or DIRTY (10_state.md R30, R37): two machines that differ only there still differ only there after a
step of each. -/
def Obligations.SoundAndDirtyAreNeverRead : Prop :=
  ∀ (s t : State) (b : Byte) (d : Bool), step s = .next t →
    ∃ b' d', step { s with st := b, dirty := d } = .next { t with st := b', dirty := d' }

/-- A stack slot at SD or above is never read (10_state.md R29; the spec's decision D4): what it holds makes no difference
to the next state but in that slot itself. -/
def Obligations.StaleSlotsAreNeverRead : Prop :=
  ∀ (i : Instr) (s : State) (j : Fin 16) (w : Word), s.sd.val ≤ j.val →
    ∃ t u, exec i s = .next t ∧ exec i { s with stack := s.stack.set j.val w } = .next u ∧
      (u = t ∨ u = { t with stack := t.stack.set j.val w })
end

