-- ==== Sys2Proof/Laws/State.lean ====
section
/-! SUPPORT. One lemma per field of State per update, and one per reading operation that an update leaves alone: each is
true by unfolding, and no later proof unfolds a record update. -/

namespace Sys2Proof.Machine

variable (s : State)

/-! ### `State.storeBytes` -/

@[simp] theorem State.storeBytes_v (a : Nat) (bs : List Byte) : (s.storeBytes a bs).v = s.v := rfl
@[simp] theorem State.storeBytes_i (a : Nat) (bs : List Byte) : (s.storeBytes a bs).i = s.i := rfl
@[simp] theorem State.storeBytes_pc (a : Nat) (bs : List Byte) : (s.storeBytes a bs).pc = s.pc := rfl
@[simp] theorem State.storeBytes_stack (a : Nat) (bs : List Byte) : (s.storeBytes a bs).stack = s.stack := rfl
@[simp] theorem State.storeBytes_sd (a : Nat) (bs : List Byte) : (s.storeBytes a bs).sd = s.sd := rfl
@[simp] theorem State.storeBytes_dt (a : Nat) (bs : List Byte) : (s.storeBytes a bs).dt = s.dt := rfl
@[simp] theorem State.storeBytes_st (a : Nat) (bs : List Byte) : (s.storeBytes a bs).st = s.st := rfl
@[simp] theorem State.storeBytes_tdiv (a : Nat) (bs : List Byte) : (s.storeBytes a bs).tdiv = s.tdiv := rfl
@[simp] theorem State.storeBytes_halt (a : Nat) (bs : List Byte) : (s.storeBytes a bs).halt = s.halt := rfl
@[simp] theorem State.storeBytes_haltReg (a : Nat) (bs : List Byte) : (s.storeBytes a bs).haltReg = s.haltReg := rfl
@[simp] theorem State.storeBytes_mem (a : Nat) (bs : List Byte) : (s.storeBytes a bs).mem = s.mem.writeBytes a bs := rfl
@[simp] theorem State.storeBytes_fb (a : Nat) (bs : List Byte) : (s.storeBytes a bs).fb = s.fb := rfl
@[simp] theorem State.storeBytes_dirty (a : Nat) (bs : List Byte) : (s.storeBytes a bs).dirty = s.dirty := rfl
@[simp] theorem State.storeBytes_key (a : Nat) (bs : List Byte) : (s.storeBytes a bs).key = s.key := rfl
@[simp] theorem State.storeBytes_fault (a : Nat) (bs : List Byte) : (s.storeBytes a bs).fault = s.fault := rfl
@[simp] theorem State.storeBytes_config (a : Nat) (bs : List Byte) : (s.storeBytes a bs).config = s.config := rfl
@[simp] theorem State.storeBytes_draws (a : Nat) (bs : List Byte) : (s.storeBytes a bs).draws = s.draws := rfl
@[simp] theorem State.storeBytes_getV (a : Nat) (bs : List Byte) (r : Reg) : (s.storeBytes a bs).getV r = s.getV r := rfl
@[simp] theorem State.storeBytes_base (a : Nat) (bs : List Byte) : (s.storeBytes a bs).base = s.base := rfl
@[simp] theorem State.storeBytes_keyDown (a : Nat) (bs : List Byte) (k : Key) : (s.storeBytes a bs).keyDown k = s.keyDown k := rfl

/-! ### `State.setV` -/

@[simp] theorem State.setV_v (r : Reg) (b : Byte) : (s.setV r b).v = s.v.set r.toNat b := rfl
@[simp] theorem State.setV_i (r : Reg) (b : Byte) : (s.setV r b).i = s.i := rfl
@[simp] theorem State.setV_pc (r : Reg) (b : Byte) : (s.setV r b).pc = s.pc := rfl
@[simp] theorem State.setV_stack (r : Reg) (b : Byte) : (s.setV r b).stack = s.stack := rfl
@[simp] theorem State.setV_sd (r : Reg) (b : Byte) : (s.setV r b).sd = s.sd := rfl
@[simp] theorem State.setV_dt (r : Reg) (b : Byte) : (s.setV r b).dt = s.dt := rfl
@[simp] theorem State.setV_st (r : Reg) (b : Byte) : (s.setV r b).st = s.st := rfl
@[simp] theorem State.setV_tdiv (r : Reg) (b : Byte) : (s.setV r b).tdiv = s.tdiv := rfl
@[simp] theorem State.setV_halt (r : Reg) (b : Byte) : (s.setV r b).halt = s.halt := rfl
@[simp] theorem State.setV_haltReg (r : Reg) (b : Byte) : (s.setV r b).haltReg = s.haltReg := rfl
@[simp] theorem State.setV_mem (r : Reg) (b : Byte) : (s.setV r b).mem = s.mem := rfl
@[simp] theorem State.setV_fb (r : Reg) (b : Byte) : (s.setV r b).fb = s.fb := rfl
@[simp] theorem State.setV_dirty (r : Reg) (b : Byte) : (s.setV r b).dirty = s.dirty := rfl
@[simp] theorem State.setV_key (r : Reg) (b : Byte) : (s.setV r b).key = s.key := rfl
@[simp] theorem State.setV_fault (r : Reg) (b : Byte) : (s.setV r b).fault = s.fault := rfl
@[simp] theorem State.setV_config (r : Reg) (b : Byte) : (s.setV r b).config = s.config := rfl
@[simp] theorem State.setV_draws (r : Reg) (b : Byte) : (s.setV r b).draws = s.draws := rfl
@[simp] theorem State.setV_byteAt (r : Reg) (b : Byte) (a : Nat) : (s.setV r b).byteAt a = s.byteAt a := rfl
@[simp] theorem State.setV_base (r : Reg) (b : Byte) : (s.setV r b).base = s.base := rfl
@[simp] theorem State.setV_keyDown (r : Reg) (b : Byte) (k : Key) : (s.setV r b).keyDown k = s.keyDown k := rfl

/-! ### `State.setFlag` -/

@[simp] theorem State.setFlag_v (c : Bool) : (s.setFlag c).v = s.v.set 15 (if c then 0x01#8 else 0x00#8) := rfl
@[simp] theorem State.setFlag_i (c : Bool) : (s.setFlag c).i = s.i := rfl
@[simp] theorem State.setFlag_pc (c : Bool) : (s.setFlag c).pc = s.pc := rfl
@[simp] theorem State.setFlag_stack (c : Bool) : (s.setFlag c).stack = s.stack := rfl
@[simp] theorem State.setFlag_sd (c : Bool) : (s.setFlag c).sd = s.sd := rfl
@[simp] theorem State.setFlag_dt (c : Bool) : (s.setFlag c).dt = s.dt := rfl
@[simp] theorem State.setFlag_st (c : Bool) : (s.setFlag c).st = s.st := rfl
@[simp] theorem State.setFlag_tdiv (c : Bool) : (s.setFlag c).tdiv = s.tdiv := rfl
@[simp] theorem State.setFlag_halt (c : Bool) : (s.setFlag c).halt = s.halt := rfl
@[simp] theorem State.setFlag_haltReg (c : Bool) : (s.setFlag c).haltReg = s.haltReg := rfl
@[simp] theorem State.setFlag_mem (c : Bool) : (s.setFlag c).mem = s.mem := rfl
@[simp] theorem State.setFlag_fb (c : Bool) : (s.setFlag c).fb = s.fb := rfl
@[simp] theorem State.setFlag_dirty (c : Bool) : (s.setFlag c).dirty = s.dirty := rfl
@[simp] theorem State.setFlag_key (c : Bool) : (s.setFlag c).key = s.key := rfl
@[simp] theorem State.setFlag_fault (c : Bool) : (s.setFlag c).fault = s.fault := rfl
@[simp] theorem State.setFlag_config (c : Bool) : (s.setFlag c).config = s.config := rfl
@[simp] theorem State.setFlag_draws (c : Bool) : (s.setFlag c).draws = s.draws := rfl
@[simp] theorem State.setFlag_byteAt (c : Bool) (a : Nat) : (s.setFlag c).byteAt a = s.byteAt a := rfl
@[simp] theorem State.setFlag_base (c : Bool) : (s.setFlag c).base = s.base := rfl
@[simp] theorem State.setFlag_keyDown (c : Bool) (k : Key) : (s.setFlag c).keyDown k = s.keyDown k := rfl

/-! ### `State.setI` -/

@[simp] theorem State.setI_v (w : Word) : (s.setI w).v = s.v := rfl
@[simp] theorem State.setI_i (w : Word) : (s.setI w).i = w := rfl
@[simp] theorem State.setI_pc (w : Word) : (s.setI w).pc = s.pc := rfl
@[simp] theorem State.setI_stack (w : Word) : (s.setI w).stack = s.stack := rfl
@[simp] theorem State.setI_sd (w : Word) : (s.setI w).sd = s.sd := rfl
@[simp] theorem State.setI_dt (w : Word) : (s.setI w).dt = s.dt := rfl
@[simp] theorem State.setI_st (w : Word) : (s.setI w).st = s.st := rfl
@[simp] theorem State.setI_tdiv (w : Word) : (s.setI w).tdiv = s.tdiv := rfl
@[simp] theorem State.setI_halt (w : Word) : (s.setI w).halt = s.halt := rfl
@[simp] theorem State.setI_haltReg (w : Word) : (s.setI w).haltReg = s.haltReg := rfl
@[simp] theorem State.setI_mem (w : Word) : (s.setI w).mem = s.mem := rfl
@[simp] theorem State.setI_fb (w : Word) : (s.setI w).fb = s.fb := rfl
@[simp] theorem State.setI_dirty (w : Word) : (s.setI w).dirty = s.dirty := rfl
@[simp] theorem State.setI_key (w : Word) : (s.setI w).key = s.key := rfl
@[simp] theorem State.setI_fault (w : Word) : (s.setI w).fault = s.fault := rfl
@[simp] theorem State.setI_config (w : Word) : (s.setI w).config = s.config := rfl
@[simp] theorem State.setI_draws (w : Word) : (s.setI w).draws = s.draws := rfl
@[simp] theorem State.setI_getV (w : Word) (r : Reg) : (s.setI w).getV r = s.getV r := rfl
@[simp] theorem State.setI_byteAt (w : Word) (a : Nat) : (s.setI w).byteAt a = s.byteAt a := rfl
@[simp] theorem State.setI_keyDown (w : Word) (k : Key) : (s.setI w).keyDown k = s.keyDown k := rfl

/-! ### `State.loadBlock` -/

@[simp] theorem State.loadBlock_v (a n : Nat) : (s.loadBlock a n).v = loadRegs s.mem a n s.v := rfl
@[simp] theorem State.loadBlock_i (a n : Nat) : (s.loadBlock a n).i = s.i := rfl
@[simp] theorem State.loadBlock_pc (a n : Nat) : (s.loadBlock a n).pc = s.pc := rfl
@[simp] theorem State.loadBlock_stack (a n : Nat) : (s.loadBlock a n).stack = s.stack := rfl
@[simp] theorem State.loadBlock_sd (a n : Nat) : (s.loadBlock a n).sd = s.sd := rfl
@[simp] theorem State.loadBlock_dt (a n : Nat) : (s.loadBlock a n).dt = s.dt := rfl
@[simp] theorem State.loadBlock_st (a n : Nat) : (s.loadBlock a n).st = s.st := rfl
@[simp] theorem State.loadBlock_tdiv (a n : Nat) : (s.loadBlock a n).tdiv = s.tdiv := rfl
@[simp] theorem State.loadBlock_halt (a n : Nat) : (s.loadBlock a n).halt = s.halt := rfl
@[simp] theorem State.loadBlock_haltReg (a n : Nat) : (s.loadBlock a n).haltReg = s.haltReg := rfl
@[simp] theorem State.loadBlock_mem (a n : Nat) : (s.loadBlock a n).mem = s.mem := rfl
@[simp] theorem State.loadBlock_fb (a n : Nat) : (s.loadBlock a n).fb = s.fb := rfl
@[simp] theorem State.loadBlock_dirty (a n : Nat) : (s.loadBlock a n).dirty = s.dirty := rfl
@[simp] theorem State.loadBlock_key (a n : Nat) : (s.loadBlock a n).key = s.key := rfl
@[simp] theorem State.loadBlock_fault (a n : Nat) : (s.loadBlock a n).fault = s.fault := rfl
@[simp] theorem State.loadBlock_config (a n : Nat) : (s.loadBlock a n).config = s.config := rfl
@[simp] theorem State.loadBlock_draws (a n : Nat) : (s.loadBlock a n).draws = s.draws := rfl
@[simp] theorem State.loadBlock_byteAt (a n : Nat) (a' : Nat) : (s.loadBlock a n).byteAt a' = s.byteAt a' := rfl
@[simp] theorem State.loadBlock_base (a n : Nat) : (s.loadBlock a n).base = s.base := rfl
@[simp] theorem State.loadBlock_keyDown (a n : Nat) (k : Key) : (s.loadBlock a n).keyDown k = s.keyDown k := rfl

/-! ### `State.setPc` -/

@[simp] theorem State.setPc_v (w : Word) : (s.setPc w).v = s.v := rfl
@[simp] theorem State.setPc_i (w : Word) : (s.setPc w).i = s.i := rfl
@[simp] theorem State.setPc_pc (w : Word) : (s.setPc w).pc = w := rfl
@[simp] theorem State.setPc_stack (w : Word) : (s.setPc w).stack = s.stack := rfl
@[simp] theorem State.setPc_sd (w : Word) : (s.setPc w).sd = s.sd := rfl
@[simp] theorem State.setPc_dt (w : Word) : (s.setPc w).dt = s.dt := rfl
@[simp] theorem State.setPc_st (w : Word) : (s.setPc w).st = s.st := rfl
@[simp] theorem State.setPc_tdiv (w : Word) : (s.setPc w).tdiv = s.tdiv := rfl
@[simp] theorem State.setPc_halt (w : Word) : (s.setPc w).halt = s.halt := rfl
@[simp] theorem State.setPc_haltReg (w : Word) : (s.setPc w).haltReg = s.haltReg := rfl
@[simp] theorem State.setPc_mem (w : Word) : (s.setPc w).mem = s.mem := rfl
@[simp] theorem State.setPc_fb (w : Word) : (s.setPc w).fb = s.fb := rfl
@[simp] theorem State.setPc_dirty (w : Word) : (s.setPc w).dirty = s.dirty := rfl
@[simp] theorem State.setPc_key (w : Word) : (s.setPc w).key = s.key := rfl
@[simp] theorem State.setPc_fault (w : Word) : (s.setPc w).fault = s.fault := rfl
@[simp] theorem State.setPc_config (w : Word) : (s.setPc w).config = s.config := rfl
@[simp] theorem State.setPc_draws (w : Word) : (s.setPc w).draws = s.draws := rfl
@[simp] theorem State.setPc_getV (w : Word) (r : Reg) : (s.setPc w).getV r = s.getV r := rfl
@[simp] theorem State.setPc_byteAt (w : Word) (a : Nat) : (s.setPc w).byteAt a = s.byteAt a := rfl
@[simp] theorem State.setPc_base (w : Word) : (s.setPc w).base = s.base := rfl
@[simp] theorem State.setPc_keyDown (w : Word) (k : Key) : (s.setPc w).keyDown k = s.keyDown k := rfl

/-! ### `State.advance` -/

@[simp] theorem State.advance_v : (s.advance).v = s.v := rfl
@[simp] theorem State.advance_i : (s.advance).i = s.i := rfl
@[simp] theorem State.advance_pc : (s.advance).pc = s.pc + 2#16 := rfl
@[simp] theorem State.advance_stack : (s.advance).stack = s.stack := rfl
@[simp] theorem State.advance_sd : (s.advance).sd = s.sd := rfl
@[simp] theorem State.advance_dt : (s.advance).dt = s.dt := rfl
@[simp] theorem State.advance_st : (s.advance).st = s.st := rfl
@[simp] theorem State.advance_tdiv : (s.advance).tdiv = s.tdiv := rfl
@[simp] theorem State.advance_halt : (s.advance).halt = s.halt := rfl
@[simp] theorem State.advance_haltReg : (s.advance).haltReg = s.haltReg := rfl
@[simp] theorem State.advance_mem : (s.advance).mem = s.mem := rfl
@[simp] theorem State.advance_fb : (s.advance).fb = s.fb := rfl
@[simp] theorem State.advance_dirty : (s.advance).dirty = s.dirty := rfl
@[simp] theorem State.advance_key : (s.advance).key = s.key := rfl
@[simp] theorem State.advance_fault : (s.advance).fault = s.fault := rfl
@[simp] theorem State.advance_config : (s.advance).config = s.config := rfl
@[simp] theorem State.advance_draws : (s.advance).draws = s.draws := rfl
@[simp] theorem State.advance_getV (r : Reg) : (s.advance).getV r = s.getV r := rfl
@[simp] theorem State.advance_byteAt (a : Nat) : (s.advance).byteAt a = s.byteAt a := rfl
@[simp] theorem State.advance_base : (s.advance).base = s.base := rfl
@[simp] theorem State.advance_keyDown (k : Key) : (s.advance).keyDown k = s.keyDown k := rfl

/-! ### `State.skipIf` -/

@[simp] theorem State.skipIf_v (c : Bool) : (s.skipIf c).v = s.v := rfl
@[simp] theorem State.skipIf_i (c : Bool) : (s.skipIf c).i = s.i := rfl
@[simp] theorem State.skipIf_pc (c : Bool) : (s.skipIf c).pc = s.pc + if c then 4#16 else 2#16 := rfl
@[simp] theorem State.skipIf_stack (c : Bool) : (s.skipIf c).stack = s.stack := rfl
@[simp] theorem State.skipIf_sd (c : Bool) : (s.skipIf c).sd = s.sd := rfl
@[simp] theorem State.skipIf_dt (c : Bool) : (s.skipIf c).dt = s.dt := rfl
@[simp] theorem State.skipIf_st (c : Bool) : (s.skipIf c).st = s.st := rfl
@[simp] theorem State.skipIf_tdiv (c : Bool) : (s.skipIf c).tdiv = s.tdiv := rfl
@[simp] theorem State.skipIf_halt (c : Bool) : (s.skipIf c).halt = s.halt := rfl
@[simp] theorem State.skipIf_haltReg (c : Bool) : (s.skipIf c).haltReg = s.haltReg := rfl
@[simp] theorem State.skipIf_mem (c : Bool) : (s.skipIf c).mem = s.mem := rfl
@[simp] theorem State.skipIf_fb (c : Bool) : (s.skipIf c).fb = s.fb := rfl
@[simp] theorem State.skipIf_dirty (c : Bool) : (s.skipIf c).dirty = s.dirty := rfl
@[simp] theorem State.skipIf_key (c : Bool) : (s.skipIf c).key = s.key := rfl
@[simp] theorem State.skipIf_fault (c : Bool) : (s.skipIf c).fault = s.fault := rfl
@[simp] theorem State.skipIf_config (c : Bool) : (s.skipIf c).config = s.config := rfl
@[simp] theorem State.skipIf_draws (c : Bool) : (s.skipIf c).draws = s.draws := rfl
@[simp] theorem State.skipIf_getV (c : Bool) (r : Reg) : (s.skipIf c).getV r = s.getV r := rfl
@[simp] theorem State.skipIf_byteAt (c : Bool) (a : Nat) : (s.skipIf c).byteAt a = s.byteAt a := rfl
@[simp] theorem State.skipIf_base (c : Bool) : (s.skipIf c).base = s.base := rfl
@[simp] theorem State.skipIf_keyDown (c : Bool) (k : Key) : (s.skipIf c).keyDown k = s.keyDown k := rfl

/-! ### `State.setDT` -/

@[simp] theorem State.setDT_v (b : Byte) : (s.setDT b).v = s.v := rfl
@[simp] theorem State.setDT_i (b : Byte) : (s.setDT b).i = s.i := rfl
@[simp] theorem State.setDT_pc (b : Byte) : (s.setDT b).pc = s.pc := rfl
@[simp] theorem State.setDT_stack (b : Byte) : (s.setDT b).stack = s.stack := rfl
@[simp] theorem State.setDT_sd (b : Byte) : (s.setDT b).sd = s.sd := rfl
@[simp] theorem State.setDT_dt (b : Byte) : (s.setDT b).dt = b := rfl
@[simp] theorem State.setDT_st (b : Byte) : (s.setDT b).st = s.st := rfl
@[simp] theorem State.setDT_tdiv (b : Byte) : (s.setDT b).tdiv = s.tdiv := rfl
@[simp] theorem State.setDT_halt (b : Byte) : (s.setDT b).halt = s.halt := rfl
@[simp] theorem State.setDT_haltReg (b : Byte) : (s.setDT b).haltReg = s.haltReg := rfl
@[simp] theorem State.setDT_mem (b : Byte) : (s.setDT b).mem = s.mem := rfl
@[simp] theorem State.setDT_fb (b : Byte) : (s.setDT b).fb = s.fb := rfl
@[simp] theorem State.setDT_dirty (b : Byte) : (s.setDT b).dirty = s.dirty := rfl
@[simp] theorem State.setDT_key (b : Byte) : (s.setDT b).key = s.key := rfl
@[simp] theorem State.setDT_fault (b : Byte) : (s.setDT b).fault = s.fault := rfl
@[simp] theorem State.setDT_config (b : Byte) : (s.setDT b).config = s.config := rfl
@[simp] theorem State.setDT_draws (b : Byte) : (s.setDT b).draws = s.draws := rfl
@[simp] theorem State.setDT_getV (b : Byte) (r : Reg) : (s.setDT b).getV r = s.getV r := rfl
@[simp] theorem State.setDT_byteAt (b : Byte) (a : Nat) : (s.setDT b).byteAt a = s.byteAt a := rfl
@[simp] theorem State.setDT_base (b : Byte) : (s.setDT b).base = s.base := rfl
@[simp] theorem State.setDT_keyDown (b : Byte) (k : Key) : (s.setDT b).keyDown k = s.keyDown k := rfl

/-! ### `State.setST` -/

@[simp] theorem State.setST_v (b : Byte) : (s.setST b).v = s.v := rfl
@[simp] theorem State.setST_i (b : Byte) : (s.setST b).i = s.i := rfl
@[simp] theorem State.setST_pc (b : Byte) : (s.setST b).pc = s.pc := rfl
@[simp] theorem State.setST_stack (b : Byte) : (s.setST b).stack = s.stack := rfl
@[simp] theorem State.setST_sd (b : Byte) : (s.setST b).sd = s.sd := rfl
@[simp] theorem State.setST_dt (b : Byte) : (s.setST b).dt = s.dt := rfl
@[simp] theorem State.setST_st (b : Byte) : (s.setST b).st = b := rfl
@[simp] theorem State.setST_tdiv (b : Byte) : (s.setST b).tdiv = s.tdiv := rfl
@[simp] theorem State.setST_halt (b : Byte) : (s.setST b).halt = s.halt := rfl
@[simp] theorem State.setST_haltReg (b : Byte) : (s.setST b).haltReg = s.haltReg := rfl
@[simp] theorem State.setST_mem (b : Byte) : (s.setST b).mem = s.mem := rfl
@[simp] theorem State.setST_fb (b : Byte) : (s.setST b).fb = s.fb := rfl
@[simp] theorem State.setST_dirty (b : Byte) : (s.setST b).dirty = s.dirty := rfl
@[simp] theorem State.setST_key (b : Byte) : (s.setST b).key = s.key := rfl
@[simp] theorem State.setST_fault (b : Byte) : (s.setST b).fault = s.fault := rfl
@[simp] theorem State.setST_config (b : Byte) : (s.setST b).config = s.config := rfl
@[simp] theorem State.setST_draws (b : Byte) : (s.setST b).draws = s.draws := rfl
@[simp] theorem State.setST_getV (b : Byte) (r : Reg) : (s.setST b).getV r = s.getV r := rfl
@[simp] theorem State.setST_byteAt (b : Byte) (a : Nat) : (s.setST b).byteAt a = s.byteAt a := rfl
@[simp] theorem State.setST_base (b : Byte) : (s.setST b).base = s.base := rfl
@[simp] theorem State.setST_keyDown (b : Byte) (k : Key) : (s.setST b).keyDown k = s.keyDown k := rfl

/-! ### `State.latchKeyWait` -/

@[simp] theorem State.latchKeyWait_v (x : Reg) : (s.latchKeyWait x).v = s.v := rfl
@[simp] theorem State.latchKeyWait_i (x : Reg) : (s.latchKeyWait x).i = s.i := rfl
@[simp] theorem State.latchKeyWait_pc (x : Reg) : (s.latchKeyWait x).pc = s.pc := rfl
@[simp] theorem State.latchKeyWait_stack (x : Reg) : (s.latchKeyWait x).stack = s.stack := rfl
@[simp] theorem State.latchKeyWait_sd (x : Reg) : (s.latchKeyWait x).sd = s.sd := rfl
@[simp] theorem State.latchKeyWait_dt (x : Reg) : (s.latchKeyWait x).dt = s.dt := rfl
@[simp] theorem State.latchKeyWait_st (x : Reg) : (s.latchKeyWait x).st = s.st := rfl
@[simp] theorem State.latchKeyWait_tdiv (x : Reg) : (s.latchKeyWait x).tdiv = s.tdiv := rfl
@[simp] theorem State.latchKeyWait_halt (x : Reg) : (s.latchKeyWait x).halt = true := rfl
@[simp] theorem State.latchKeyWait_haltReg (x : Reg) : (s.latchKeyWait x).haltReg = x := rfl
@[simp] theorem State.latchKeyWait_mem (x : Reg) : (s.latchKeyWait x).mem = s.mem := rfl
@[simp] theorem State.latchKeyWait_fb (x : Reg) : (s.latchKeyWait x).fb = s.fb := rfl
@[simp] theorem State.latchKeyWait_dirty (x : Reg) : (s.latchKeyWait x).dirty = s.dirty := rfl
@[simp] theorem State.latchKeyWait_key (x : Reg) : (s.latchKeyWait x).key = s.key := rfl
@[simp] theorem State.latchKeyWait_fault (x : Reg) : (s.latchKeyWait x).fault = s.fault := rfl
@[simp] theorem State.latchKeyWait_config (x : Reg) : (s.latchKeyWait x).config = s.config := rfl
@[simp] theorem State.latchKeyWait_draws (x : Reg) : (s.latchKeyWait x).draws = s.draws := rfl
@[simp] theorem State.latchKeyWait_getV (x : Reg) (r : Reg) : (s.latchKeyWait x).getV r = s.getV r := rfl
@[simp] theorem State.latchKeyWait_byteAt (x : Reg) (a : Nat) : (s.latchKeyWait x).byteAt a = s.byteAt a := rfl
@[simp] theorem State.latchKeyWait_base (x : Reg) : (s.latchKeyWait x).base = s.base := rfl
@[simp] theorem State.latchKeyWait_keyDown (x : Reg) (k : Key) : (s.latchKeyWait x).keyDown k = s.keyDown k := rfl

/-! ### `State.setDisplay` -/

@[simp] theorem State.setDisplay_v (fb : Framebuffer) : (s.setDisplay fb).v = s.v := rfl
@[simp] theorem State.setDisplay_i (fb : Framebuffer) : (s.setDisplay fb).i = s.i := rfl
@[simp] theorem State.setDisplay_pc (fb : Framebuffer) : (s.setDisplay fb).pc = s.pc := rfl
@[simp] theorem State.setDisplay_stack (fb : Framebuffer) : (s.setDisplay fb).stack = s.stack := rfl
@[simp] theorem State.setDisplay_sd (fb : Framebuffer) : (s.setDisplay fb).sd = s.sd := rfl
@[simp] theorem State.setDisplay_dt (fb : Framebuffer) : (s.setDisplay fb).dt = s.dt := rfl
@[simp] theorem State.setDisplay_st (fb : Framebuffer) : (s.setDisplay fb).st = s.st := rfl
@[simp] theorem State.setDisplay_tdiv (fb : Framebuffer) : (s.setDisplay fb).tdiv = s.tdiv := rfl
@[simp] theorem State.setDisplay_halt (fb : Framebuffer) : (s.setDisplay fb).halt = s.halt := rfl
@[simp] theorem State.setDisplay_haltReg (fb : Framebuffer) : (s.setDisplay fb).haltReg = s.haltReg := rfl
@[simp] theorem State.setDisplay_mem (fb : Framebuffer) : (s.setDisplay fb).mem = s.mem := rfl
@[simp] theorem State.setDisplay_fb (fb : Framebuffer) : (s.setDisplay fb).fb = fb := rfl
@[simp] theorem State.setDisplay_dirty (fb : Framebuffer) : (s.setDisplay fb).dirty = true := rfl
@[simp] theorem State.setDisplay_key (fb : Framebuffer) : (s.setDisplay fb).key = s.key := rfl
@[simp] theorem State.setDisplay_fault (fb : Framebuffer) : (s.setDisplay fb).fault = s.fault := rfl
@[simp] theorem State.setDisplay_config (fb : Framebuffer) : (s.setDisplay fb).config = s.config := rfl
@[simp] theorem State.setDisplay_draws (fb : Framebuffer) : (s.setDisplay fb).draws = s.draws := rfl
@[simp] theorem State.setDisplay_getV (fb : Framebuffer) (r : Reg) : (s.setDisplay fb).getV r = s.getV r := rfl
@[simp] theorem State.setDisplay_byteAt (fb : Framebuffer) (a : Nat) : (s.setDisplay fb).byteAt a = s.byteAt a := rfl
@[simp] theorem State.setDisplay_base (fb : Framebuffer) : (s.setDisplay fb).base = s.base := rfl
@[simp] theorem State.setDisplay_keyDown (fb : Framebuffer) (k : Key) : (s.setDisplay fb).keyDown k = s.keyDown k := rfl

/-! ### `State.raise` -/

@[simp] theorem State.raise_v (k : FaultKind) (w : Option Word) (a : Option Nat) (b : Option Byte) : (s.raise k w a b).v = s.v := rfl
@[simp] theorem State.raise_i (k : FaultKind) (w : Option Word) (a : Option Nat) (b : Option Byte) : (s.raise k w a b).i = s.i := rfl
@[simp] theorem State.raise_pc (k : FaultKind) (w : Option Word) (a : Option Nat) (b : Option Byte) : (s.raise k w a b).pc = s.pc := rfl
@[simp] theorem State.raise_stack (k : FaultKind) (w : Option Word) (a : Option Nat) (b : Option Byte) : (s.raise k w a b).stack = s.stack := rfl
@[simp] theorem State.raise_sd (k : FaultKind) (w : Option Word) (a : Option Nat) (b : Option Byte) : (s.raise k w a b).sd = s.sd := rfl
@[simp] theorem State.raise_dt (k : FaultKind) (w : Option Word) (a : Option Nat) (b : Option Byte) : (s.raise k w a b).dt = s.dt := rfl
@[simp] theorem State.raise_st (k : FaultKind) (w : Option Word) (a : Option Nat) (b : Option Byte) : (s.raise k w a b).st = s.st := rfl
@[simp] theorem State.raise_tdiv (k : FaultKind) (w : Option Word) (a : Option Nat) (b : Option Byte) : (s.raise k w a b).tdiv = s.tdiv := rfl
@[simp] theorem State.raise_halt (k : FaultKind) (w : Option Word) (a : Option Nat) (b : Option Byte) : (s.raise k w a b).halt = s.halt := rfl
@[simp] theorem State.raise_haltReg (k : FaultKind) (w : Option Word) (a : Option Nat) (b : Option Byte) : (s.raise k w a b).haltReg = s.haltReg := rfl
@[simp] theorem State.raise_mem (k : FaultKind) (w : Option Word) (a : Option Nat) (b : Option Byte) : (s.raise k w a b).mem = s.mem := rfl
@[simp] theorem State.raise_fb (k : FaultKind) (w : Option Word) (a : Option Nat) (b : Option Byte) : (s.raise k w a b).fb = s.fb := rfl
@[simp] theorem State.raise_dirty (k : FaultKind) (w : Option Word) (a : Option Nat) (b : Option Byte) : (s.raise k w a b).dirty = s.dirty := rfl
@[simp] theorem State.raise_key (k : FaultKind) (w : Option Word) (a : Option Nat) (b : Option Byte) : (s.raise k w a b).key = s.key := rfl
@[simp] theorem State.raise_fault (k : FaultKind) (w : Option Word) (a : Option Nat) (b : Option Byte) : (s.raise k w a b).fault = some { kind := k, pc := s.pc, word := w, addr := a, value := b } := rfl
@[simp] theorem State.raise_config (k : FaultKind) (w : Option Word) (a : Option Nat) (b : Option Byte) : (s.raise k w a b).config = s.config := rfl
@[simp] theorem State.raise_draws (k : FaultKind) (w : Option Word) (a : Option Nat) (b : Option Byte) : (s.raise k w a b).draws = s.draws := rfl
@[simp] theorem State.raise_getV (k : FaultKind) (w : Option Word) (a : Option Nat) (b : Option Byte) (r : Reg) : (s.raise k w a b).getV r = s.getV r := rfl
@[simp] theorem State.raise_byteAt (k : FaultKind) (w : Option Word) (a : Option Nat) (b : Option Byte) (a' : Nat) : (s.raise k w a b).byteAt a' = s.byteAt a' := rfl
@[simp] theorem State.raise_base (k : FaultKind) (w : Option Word) (a : Option Nat) (b : Option Byte) : (s.raise k w a b).base = s.base := rfl
@[simp] theorem State.raise_keyDown (k : FaultKind) (w : Option Word) (a : Option Nat) (b : Option Byte) (k' : Key) : (s.raise k w a b).keyDown k' = s.keyDown k' := rfl

/-! ### `State.setKey` -/

@[simp] theorem State.setKey_v (k : Key) (p : Bool) : (s.setKey k p).v = s.v := rfl
@[simp] theorem State.setKey_i (k : Key) (p : Bool) : (s.setKey k p).i = s.i := rfl
@[simp] theorem State.setKey_pc (k : Key) (p : Bool) : (s.setKey k p).pc = s.pc := rfl
@[simp] theorem State.setKey_stack (k : Key) (p : Bool) : (s.setKey k p).stack = s.stack := rfl
@[simp] theorem State.setKey_sd (k : Key) (p : Bool) : (s.setKey k p).sd = s.sd := rfl
@[simp] theorem State.setKey_dt (k : Key) (p : Bool) : (s.setKey k p).dt = s.dt := rfl
@[simp] theorem State.setKey_st (k : Key) (p : Bool) : (s.setKey k p).st = s.st := rfl
@[simp] theorem State.setKey_tdiv (k : Key) (p : Bool) : (s.setKey k p).tdiv = s.tdiv := rfl
@[simp] theorem State.setKey_halt (k : Key) (p : Bool) : (s.setKey k p).halt = s.halt := rfl
@[simp] theorem State.setKey_haltReg (k : Key) (p : Bool) : (s.setKey k p).haltReg = s.haltReg := rfl
@[simp] theorem State.setKey_mem (k : Key) (p : Bool) : (s.setKey k p).mem = s.mem := rfl
@[simp] theorem State.setKey_fb (k : Key) (p : Bool) : (s.setKey k p).fb = s.fb := rfl
@[simp] theorem State.setKey_dirty (k : Key) (p : Bool) : (s.setKey k p).dirty = s.dirty := rfl
@[simp] theorem State.setKey_key (k : Key) (p : Bool) : (s.setKey k p).key = s.key.set k.toNat p := rfl
@[simp] theorem State.setKey_fault (k : Key) (p : Bool) : (s.setKey k p).fault = s.fault := rfl
@[simp] theorem State.setKey_config (k : Key) (p : Bool) : (s.setKey k p).config = s.config := rfl
@[simp] theorem State.setKey_draws (k : Key) (p : Bool) : (s.setKey k p).draws = s.draws := rfl
@[simp] theorem State.setKey_getV (k : Key) (p : Bool) (r : Reg) : (s.setKey k p).getV r = s.getV r := rfl
@[simp] theorem State.setKey_byteAt (k : Key) (p : Bool) (a : Nat) : (s.setKey k p).byteAt a = s.byteAt a := rfl
@[simp] theorem State.setKey_base (k : Key) (p : Bool) : (s.setKey k p).base = s.base := rfl

/-! ### `State.bumpIndex` and `State.drawRandom` -/

@[simp] theorem State.bumpIndex_v (x : Reg) : (s.bumpIndex x).v = s.v := by unfold State.bumpIndex; split <;> rfl
theorem State.bumpIndex_i (x : Reg) : (s.bumpIndex x).i = if s.config.qIndexIncrement then BitVec.ofNat 16 (s.i.toNat + blockSize x) else s.i := by
  unfold State.bumpIndex; split <;> rfl
@[simp] theorem State.bumpIndex_pc (x : Reg) : (s.bumpIndex x).pc = s.pc := by unfold State.bumpIndex; split <;> rfl
@[simp] theorem State.bumpIndex_stack (x : Reg) : (s.bumpIndex x).stack = s.stack := by unfold State.bumpIndex; split <;> rfl
@[simp] theorem State.bumpIndex_sd (x : Reg) : (s.bumpIndex x).sd = s.sd := by unfold State.bumpIndex; split <;> rfl
@[simp] theorem State.bumpIndex_dt (x : Reg) : (s.bumpIndex x).dt = s.dt := by unfold State.bumpIndex; split <;> rfl
@[simp] theorem State.bumpIndex_st (x : Reg) : (s.bumpIndex x).st = s.st := by unfold State.bumpIndex; split <;> rfl
@[simp] theorem State.bumpIndex_tdiv (x : Reg) : (s.bumpIndex x).tdiv = s.tdiv := by unfold State.bumpIndex; split <;> rfl
@[simp] theorem State.bumpIndex_halt (x : Reg) : (s.bumpIndex x).halt = s.halt := by unfold State.bumpIndex; split <;> rfl
@[simp] theorem State.bumpIndex_haltReg (x : Reg) : (s.bumpIndex x).haltReg = s.haltReg := by unfold State.bumpIndex; split <;> rfl
@[simp] theorem State.bumpIndex_mem (x : Reg) : (s.bumpIndex x).mem = s.mem := by unfold State.bumpIndex; split <;> rfl
@[simp] theorem State.bumpIndex_fb (x : Reg) : (s.bumpIndex x).fb = s.fb := by unfold State.bumpIndex; split <;> rfl
@[simp] theorem State.bumpIndex_dirty (x : Reg) : (s.bumpIndex x).dirty = s.dirty := by unfold State.bumpIndex; split <;> rfl
@[simp] theorem State.bumpIndex_key (x : Reg) : (s.bumpIndex x).key = s.key := by unfold State.bumpIndex; split <;> rfl
@[simp] theorem State.bumpIndex_fault (x : Reg) : (s.bumpIndex x).fault = s.fault := by unfold State.bumpIndex; split <;> rfl
@[simp] theorem State.bumpIndex_config (x : Reg) : (s.bumpIndex x).config = s.config := by unfold State.bumpIndex; split <;> rfl
@[simp] theorem State.bumpIndex_draws (x : Reg) : (s.bumpIndex x).draws = s.draws := by unfold State.bumpIndex; split <;> rfl
@[simp] theorem State.bumpIndex_getV (x r : Reg) : (s.bumpIndex x).getV r = s.getV r := by unfold State.bumpIndex; split <;> rfl
@[simp] theorem State.bumpIndex_byteAt (x : Reg) (a : Nat) : (s.bumpIndex x).byteAt a = s.byteAt a := by unfold State.bumpIndex; split <;> rfl
@[simp] theorem State.drawRandom_fst : s.drawRandom.1 = Config.rnd s.draws := rfl
@[simp] theorem State.drawRandom_snd_v : s.drawRandom.2.v = s.v := rfl
@[simp] theorem State.drawRandom_snd_i : s.drawRandom.2.i = s.i := rfl
@[simp] theorem State.drawRandom_snd_pc : s.drawRandom.2.pc = s.pc := rfl
@[simp] theorem State.drawRandom_snd_stack : s.drawRandom.2.stack = s.stack := rfl
@[simp] theorem State.drawRandom_snd_sd : s.drawRandom.2.sd = s.sd := rfl
@[simp] theorem State.drawRandom_snd_dt : s.drawRandom.2.dt = s.dt := rfl
@[simp] theorem State.drawRandom_snd_st : s.drawRandom.2.st = s.st := rfl
@[simp] theorem State.drawRandom_snd_tdiv : s.drawRandom.2.tdiv = s.tdiv := rfl
@[simp] theorem State.drawRandom_snd_halt : s.drawRandom.2.halt = s.halt := rfl
@[simp] theorem State.drawRandom_snd_haltReg : s.drawRandom.2.haltReg = s.haltReg := rfl
@[simp] theorem State.drawRandom_snd_mem : s.drawRandom.2.mem = s.mem := rfl
@[simp] theorem State.drawRandom_snd_fb : s.drawRandom.2.fb = s.fb := rfl
@[simp] theorem State.drawRandom_snd_dirty : s.drawRandom.2.dirty = s.dirty := rfl
@[simp] theorem State.drawRandom_snd_key : s.drawRandom.2.key = s.key := rfl
@[simp] theorem State.drawRandom_snd_fault : s.drawRandom.2.fault = s.fault := rfl
@[simp] theorem State.drawRandom_snd_config : s.drawRandom.2.config = s.config := rfl
@[simp] theorem State.drawRandom_snd_draws : s.drawRandom.2.draws = s.draws + 1 := rfl
@[simp] theorem State.drawRandom_snd_getV (r : Reg) : s.drawRandom.2.getV r = s.getV r := rfl
@[simp] theorem State.drawRandom_snd_byteAt (a : Nat) : s.drawRandom.2.byteAt a = s.byteAt a := rfl

/-! ### The tick -/

@[simp] theorem State.tick_v : s.tick.v = s.v := by unfold State.tick; split <;> rfl
@[simp] theorem State.tick_i : s.tick.i = s.i := by unfold State.tick; split <;> rfl
@[simp] theorem State.tick_pc : s.tick.pc = s.pc := by unfold State.tick; split <;> rfl
@[simp] theorem State.tick_stack : s.tick.stack = s.stack := by unfold State.tick; split <;> rfl
@[simp] theorem State.tick_sd : s.tick.sd = s.sd := by unfold State.tick; split <;> rfl
@[simp] theorem State.tick_halt : s.tick.halt = s.halt := by unfold State.tick; split <;> rfl
@[simp] theorem State.tick_haltReg : s.tick.haltReg = s.haltReg := by unfold State.tick; split <;> rfl
@[simp] theorem State.tick_mem : s.tick.mem = s.mem := by unfold State.tick; split <;> rfl
@[simp] theorem State.tick_fb : s.tick.fb = s.fb := by unfold State.tick; split <;> rfl
@[simp] theorem State.tick_dirty : s.tick.dirty = s.dirty := by unfold State.tick; split <;> rfl
@[simp] theorem State.tick_key : s.tick.key = s.key := by unfold State.tick; split <;> rfl
@[simp] theorem State.tick_fault : s.tick.fault = s.fault := by unfold State.tick; split <;> rfl
@[simp] theorem State.tick_config : s.tick.config = s.config := by unfold State.tick; split <;> rfl
@[simp] theorem State.tick_draws : s.tick.draws = s.draws := by unfold State.tick; split <;> rfl
@[simp] theorem State.tick_getV (r : Reg) : s.tick.getV r = s.getV r := by unfold State.tick; split <;> rfl
@[simp] theorem State.tick_byteAt (a : Nat) : s.tick.byteAt a = s.byteAt a := by unfold State.tick; split <;> rfl

end Sys2Proof.Machine
end

