-- ==== Sys2Proof/Laws/Blitter.lean ====
section
/-! SUPPORT. What the parts of the blitter do: a pixel write, one sprite bit of 1, and a whole sprite as
the list of positions its 1-bits are drawn at. -/

namespace Sys2Proof.Machine

/-- A pixel write changes its pixel if it is on the grid, and no other. -/
theorem Framebuffer.pixel_setPixel (fb : Framebuffer) (x y X Y : Nat) (b : Bool) :
    (fb.setPixel x y b).pixel X Y = if X = x ∧ Y = y ∧ X < 64 ∧ Y < 32 then b else fb.pixel X Y := by
  unfold Framebuffer.setPixel Framebuffer.pixel
  by_cases hg : X < 64 ∧ Y < 32
  · by_cases h : x < 64 ∧ y < 32
    · simp only [hg, h, and_self, dite_true, and_true]
      by_cases hy : Y = y
      · subst hy
        by_cases hx : X = x
        · subst hx; simp
        · have hx' : x ≠ X := fun e => hx e.symm
          simp [hx, hx']
      · have hy' : y ≠ Y := fun e => hy e.symm
        simp [hy, hy']
    · have hne : ¬(X = x ∧ Y = y) := fun e => h ⟨e.1 ▸ hg.1, e.2 ▸ hg.2⟩
      simp only [h, dite_false, hg, and_self, dite_true, and_true]
      simp [hne]
  · simp [hg]

/-- Two framebuffers with the same pixels are the same. -/
theorem Framebuffer.ext_pixel {f g : Framebuffer} (h : ∀ X Y, X < 64 → Y < 32 → f.pixel X Y = g.pixel X Y) : f = g := by
  apply Vector.ext
  intro y hy
  apply Vector.ext
  intro x hx
  simpa [Framebuffer.pixel, hx, hy] using h x y hx hy

/-- The pixels after one sprite bit of 1: its own position toggles, if it is on the grid (43_display.md R103, R104). -/
theorem Blit.toggle_pixel (b : Blit) (px py X Y : Nat) (hX : X < 64) (hY : Y < 32) :
    (b.toggle px py).fb.pixel X Y = if X = px ∧ Y = py then !b.fb.pixel X Y else b.fb.pixel X Y := by
  unfold Blit.toggle offGrid screenWidth screenHeight
  split
  · next h =>
    simp only [Bool.or_eq_true, decide_eq_true_eq] at h
    rw [if_neg (by omega)]
  · rw [Framebuffer.pixel_setPixel]
    by_cases h : X = px ∧ Y = py
    · obtain ⟨rfl, rfl⟩ := h; simp [hX, hY]
    · rw [if_neg (fun e => h ⟨e.1, e.2.1⟩), if_neg h]

/-- The collision after one sprite bit of 1: off the grid, or on a set pixel (43_display.md R103, R104). -/
theorem Blit.toggle_hit (b : Blit) (px py : Nat) :
    (b.toggle px py).hit = (b.hit || decide (64 ≤ px) || decide (32 ≤ py) || b.fb.pixel px py) := by
  unfold Blit.toggle offGrid screenWidth screenHeight
  split
  · next h =>
    simp only [Bool.or_eq_true, decide_eq_true_eq] at h
    rcases h with h | h <;> simp [h]
  · next h =>
    simp only [Bool.or_eq_true, decide_eq_true_eq, not_or] at h
    simp [h]

/-! ### A sprite as the positions of its 1-bits -/

/-- Toggles a list of positions, one after another. -/
def Blit.toggleAll (b : Blit) (ps : List (Nat × Nat)) : Blit := ps.foldl (fun b p => b.toggle p.1 p.2) b

/-- The positions of a row's 1-bits. -/
def rowMarks (wrap : Bool) (ox py : Nat) (row : Byte) : List (Nat × Nat) :=
  ((List.range 8).filter (spriteBit row)).map (fun c => drawPosition wrap (ox + c) py)

/-- The positions of a sprite's 1-bits, row by row. -/
def marks (wrap : Bool) (ox : Nat) : Nat → List Byte → List (Nat × Nat)
  | _, [] => []
  | py, row :: rows => rowMarks wrap ox py row ++ marks wrap ox (py + 1) rows

/-- Drawing a row toggles its positions. -/
theorem Blit.drawRow_eq (wrap : Bool) (ox py : Nat) (row : Byte) (b : Blit) :
    b.drawRow wrap ox py row = b.toggleAll (rowMarks wrap ox py row) := by
  unfold Blit.drawRow Blit.toggleAll rowMarks
  rw [List.foldl_map, List.foldl_filter]
  rfl

/-- Drawing a sprite toggles its positions (43_display.md R101 to R105). -/
theorem Blit.drawRows_eq (wrap : Bool) (ox oy : Nat) (rows : List Byte) (b : Blit) :
    b.drawRows wrap ox oy rows = b.toggleAll (marks wrap ox oy rows) := by
  induction rows generalizing oy b with
  | nil => rfl
  | cons row rows ih =>
    rw [Blit.drawRows, ih, Blit.drawRow_eq, marks]
    simp [Blit.toggleAll]

/-- After toggling distinct positions, exactly the grid's pixels among them are inverted. -/
theorem Blit.toggleAll_pixel (b : Blit) (ps : List (Nat × Nat)) (hps : ps.Nodup) (X Y : Nat) (hX : X < 64)
    (hY : Y < 32) : (b.toggleAll ps).fb.pixel X Y = (b.fb.pixel X Y ^^ decide ((X, Y) ∈ ps)) := by
  induction ps generalizing b with
  | nil => simp [Blit.toggleAll]
  | cons p ps ih =>
    obtain ⟨hp, hps⟩ := List.nodup_cons.mp hps
    rw [Blit.toggleAll, List.foldl_cons, ← Blit.toggleAll, ih _ hps, Blit.toggle_pixel _ _ _ _ _ hX hY]
    by_cases h : X = p.1 ∧ Y = p.2
    · have e : (X, Y) = p := Prod.ext h.1 h.2
      simp [hp, h]
    · have e : (X, Y) ≠ p := fun e => h ⟨congrArg Prod.fst e, congrArg Prod.snd e⟩
      simp [e, h]

/-- Toggling distinct positions reports a collision exactly if one is off the grid or its pixel was set. -/
theorem Blit.toggleAll_hit (b : Blit) (ps : List (Nat × Nat)) (hps : ps.Nodup) :
    (b.toggleAll ps).hit = true ↔
      b.hit = true ∨ ∃ p ∈ ps, 64 ≤ p.1 ∨ 32 ≤ p.2 ∨ b.fb.pixel p.1 p.2 = true := by
  induction ps generalizing b with
  | nil => simp [Blit.toggleAll]
  | cons p ps ih =>
    obtain ⟨hp, hps⟩ := List.nodup_cons.mp hps
    rw [Blit.toggleAll, List.foldl_cons, ← Blit.toggleAll, ih _ hps, Blit.toggle_hit]
    have same : ∀ q ∈ ps, q.1 < 64 → q.2 < 32 → (b.toggle p.1 p.2).fb.pixel q.1 q.2 = b.fb.pixel q.1 q.2 := by
      intro q hq h1 h2
      rw [Blit.toggle_pixel _ _ _ _ _ h1 h2, if_neg]
      exact fun e => hp (Prod.ext e.1 e.2 ▸ hq)
    have step : (∃ q ∈ ps, 64 ≤ q.1 ∨ 32 ≤ q.2 ∨ (b.toggle p.1 p.2).fb.pixel q.1 q.2 = true) ↔
        ∃ q ∈ ps, 64 ≤ q.1 ∨ 32 ≤ q.2 ∨ b.fb.pixel q.1 q.2 = true := by
      refine exists_congr fun q => and_congr_right fun hq => ?_
      by_cases h1 : 64 ≤ q.1
      · simp [h1]
      · by_cases h2 : 32 ≤ q.2
        · simp [h2]
        · rw [same q hq (by omega) (by omega)]
    rw [step]
    simp only [Bool.or_eq_true, decide_eq_true_eq, List.mem_cons, exists_eq_or_imp, or_assoc]

/-- Which positions a sprite draws at. -/
theorem mem_marks (wrap : Bool) (ox oy : Nat) (rows : List Byte) (p : Nat × Nat) :
    p ∈ marks wrap ox oy rows ↔
      ∃ r c, bitSet rows r c = true ∧ drawPosition wrap (ox + c) (oy + r) = p := by
  induction rows generalizing oy with
  | nil => simp [marks, bitSet]
  | cons row rows ih =>
    rw [marks, List.mem_append, ih, rowMarks]
    simp only [List.mem_map, List.mem_filter, List.mem_range]
    constructor
    · rintro (⟨c, ⟨hc, hb⟩, rfl⟩ | ⟨r, c, hb, rfl⟩)
      · exact ⟨0, c, by simpa [bitSet, hc, spriteBit] using hb, rfl⟩
      · refine ⟨r + 1, c, by simpa [bitSet] using hb, ?_⟩
        rw [Nat.add_right_comm, Nat.add_assoc]
    · rintro ⟨r, c, hb, rfl⟩
      cases r with
      | zero =>
        have hc : c < 8 := by
          by_contra h
          simp [bitSet, h] at hb
        exact .inl ⟨c, ⟨hc, by simpa [bitSet, hc, spriteBit] using hb⟩, rfl⟩
      | succ r =>
        refine .inr ⟨r, c, by simpa [bitSet] using hb, ?_⟩
        rw [Nat.add_right_comm, Nat.add_assoc]

/-- A sprite's positions are distinct: clipped always, wrapped if it has at most 32 rows (it is 8 columns wide). -/
theorem marks_nodup (wrap : Bool) (ox oy : Nat) (rows : List Byte) (h : rows.length ≤ 32) :
    (marks wrap ox oy rows).Nodup := by
  induction rows generalizing oy with
  | nil => simp [marks]
  | cons row rows ih =>
    rw [List.length_cons] at h
    rw [marks, List.nodup_append]
    refine ⟨?_, ih _ (by omega), ?_⟩
    · refine List.Nodup.map_on ?_ (List.nodup_range.filter _)
      intro c hc d hd e
      simp only [List.mem_filter, List.mem_range] at hc hd
      unfold drawPosition screenWidth at e
      cases wrap <;> simp at e <;> omega
    · intro p hp q hq e
      subst e
      rw [mem_marks] at hq
      obtain ⟨r, c, hb, hq⟩ := hq
      have hr : r < rows.length := by
        by_contra hr
        simp [bitSet, hr] at hb
      simp only [rowMarks, List.mem_map] at hp
      obtain ⟨d, _, hp⟩ := hp
      rw [← hp] at hq
      unfold drawPosition screenWidth screenHeight at hq
      cases wrap <;> simp at hq <;> omega

/-- A clipped position is not reduced. -/
theorem drawPosition_clipped (px py : Nat) : drawPosition false px py = (px, py) := rfl

/-- A wrapped position is on the grid. -/
theorem drawPosition_wrapped (px py : Nat) : drawPosition true px py = (px % 64, py % 32) := rfl

end Sys2Proof.Machine
end

