-- ==== Sys2Proof/Laws/Encoding.lean ====
section
/-! SUPPORT. The fields of a word built in one of the formats (30_encoding.md R59, R61), and the bytes of a word
(20_memory.md R50). -/

namespace Sys2Proof

@[simp] theorem opField_wordFA (op : Nibble) (nnn : Addr12) : opField (wordFA op nnn) = op :=
  BitVec.extractLsb'_append_eq_left

@[simp] theorem nnnField_wordFA (op : Nibble) (nnn : Addr12) : nnnField (wordFA op nnn) = nnn :=
  BitVec.extractLsb'_append_eq_right

@[simp] theorem opField_wordFXK (op : Nibble) (x : Reg) (kk : Byte) : opField (wordFXK op x kk) = op :=
  (BitVec.extractLsb'_append_eq_of_le (by decide)).trans BitVec.extractLsb'_append_eq_left

@[simp] theorem xField_wordFXK (op : Nibble) (x : Reg) (kk : Byte) : xField (wordFXK op x kk) = x :=
  (BitVec.extractLsb'_append_eq_of_le (by decide)).trans BitVec.extractLsb'_append_eq_right

@[simp] theorem kkField_wordFXK (op : Nibble) (x : Reg) (kk : Byte) : kkField (wordFXK op x kk) = kk :=
  BitVec.extractLsb'_append_eq_right

@[simp] theorem opField_wordFXY (op : Nibble) (x y : Reg) (n : Nibble) : opField (wordFXY op x y n) = op :=
  (BitVec.extractLsb'_append_eq_of_le (by decide)).trans
    ((BitVec.extractLsb'_append_eq_of_le (by decide)).trans BitVec.extractLsb'_append_eq_left)

@[simp] theorem xField_wordFXY (op : Nibble) (x y : Reg) (n : Nibble) : xField (wordFXY op x y n) = x :=
  (BitVec.extractLsb'_append_eq_of_le (by decide)).trans
    ((BitVec.extractLsb'_append_eq_of_le (by decide)).trans BitVec.extractLsb'_append_eq_right)

@[simp] theorem yField_wordFXY (op : Nibble) (x y : Reg) (n : Nibble) : yField (wordFXY op x y n) = y :=
  (BitVec.extractLsb'_append_eq_of_le (by decide)).trans BitVec.extractLsb'_append_eq_right

@[simp] theorem nField_wordFXY (op : Nibble) (x y : Reg) (n : Nibble) : nField (wordFXY op x y n) = n :=
  BitVec.extractLsb'_append_eq_right

/-- The bits of a word of format FXK. -/
theorem getLsbD_wordFXK (op : Nibble) (x : Reg) (kk : Byte) (i : Nat) :
    (wordFXK op x kk).getLsbD i =
      if i < 8 then kk.getLsbD i else if i - 8 < 4 then x.getLsbD (i - 8) else op.getLsbD (i - 8 - 4) := by
  show (op ++ x ++ kk).getLsbD i = _
  rw [BitVec.getLsbD_append, BitVec.getLsbD_append]

/-- The bits of a word of format FXY. -/
theorem getLsbD_wordFXY (op : Nibble) (x y : Reg) (n : Nibble) (i : Nat) :
    (wordFXY op x y n).getLsbD i =
      if i < 4 then n.getLsbD i else if i - 4 < 4 then y.getLsbD (i - 4)
      else if i - 4 - 4 < 4 then x.getLsbD (i - 4 - 4) else op.getLsbD (i - 4 - 4 - 4) := by
  show (op ++ x ++ y ++ n).getLsbD i = _
  rw [BitVec.getLsbD_append, BitVec.getLsbD_append, BitVec.getLsbD_append]

/-- A word is put together again from its format's fields. -/
theorem wordFA_fields (w : Word) : wordFA (opField w) (nnnField w) = w := by
  apply BitVec.eq_of_toNat_eq
  simp only [wordFA, opField, nnnField, BitVec.toNat_append, BitVec.extractLsb'_toNat]
  rw [← Nat.shiftLeft_add_eq_or_of_lt (Nat.mod_lt _ (by norm_num))]
  have := w.isLt
  omega

theorem wordFXK_fields (w : Word) : wordFXK (opField w) (xField w) (kkField w) = w := by
  apply BitVec.eq_of_toNat_eq
  simp only [wordFXK, opField, xField, kkField, BitVec.toNat_append, BitVec.extractLsb'_toNat]
  rw [← Nat.shiftLeft_add_eq_or_of_lt (Nat.mod_lt _ (by norm_num)),
    ← Nat.shiftLeft_add_eq_or_of_lt (Nat.mod_lt _ (by norm_num))]
  have := w.isLt
  omega

theorem wordFXY_fields (w : Word) : wordFXY (opField w) (xField w) (yField w) (nField w) = w := by
  apply BitVec.eq_of_toNat_eq
  simp only [wordFXY, opField, xField, yField, nField, BitVec.toNat_append, BitVec.extractLsb'_toNat]
  rw [← Nat.shiftLeft_add_eq_or_of_lt (Nat.mod_lt _ (by norm_num)),
    ← Nat.shiftLeft_add_eq_or_of_lt (Nat.mod_lt _ (by norm_num)),
    ← Nat.shiftLeft_add_eq_or_of_lt (Nat.mod_lt _ (by norm_num))]
  have := w.isLt
  omega

/-- A word's two bytes, put together big-endian, are the word. -/
@[simp] theorem wordOfBytes_bytes (w : Word) : wordOfBytes (highByte w) (lowByte w) = w := by
  apply BitVec.eq_of_toNat_eq
  simp only [wordOfBytes, highByte, lowByte, BitVec.toNat_append, BitVec.extractLsb'_toNat]
  rw [← Nat.shiftLeft_add_eq_or_of_lt (Nat.mod_lt _ (by norm_num))]
  have := w.isLt
  omega

@[simp] theorem highByte_wordOfBytes (hi lo : Byte) : highByte (wordOfBytes hi lo) = hi :=
  BitVec.extractLsb'_append_eq_left

@[simp] theorem lowByte_wordOfBytes (hi lo : Byte) : lowByte (wordOfBytes hi lo) = lo :=
  BitVec.extractLsb'_append_eq_right

/-- A table word of at most 16 bits is read as it stands. -/
theorem decodeTableWord_eq (w : Word) : decodeTableWord 16 w.toNat = (decode w).toOption := by
  have h : tableWord 16 w.toNat = w := by
    have := w.isLt
    apply BitVec.eq_of_toNat_eq
    simp [tableWord, Nat.mod_eq_of_lt this]
  simp only [decodeTableWord, h, decodeBytes, wordOfBytes_bytes]
  cases decode w <;> rfl

end Sys2Proof
end

