-- ==== Sys2Proof/Laws/Footprint.lean ====
section
/-! SUPPORT. Which addresses and registers the lists of a footprint hold. -/

namespace Sys2Proof.Machine

theorem mem_addressesFrom (a n k : Nat) : k ∈ addressesFrom a n ↔ a ≤ k ∧ k < a + n := by
  simp only [addressesFrom, List.mem_map, List.mem_range]
  constructor
  · rintro ⟨b, h, rfl⟩
    omega
  · rintro ⟨h1, h2⟩
    exact ⟨k - a, by omega, by omega⟩

theorem mem_regsUpTo (x r : Reg) : r ∈ regsUpTo x ↔ r.toNat ≤ x.toNat := by
  have := x.isLt
  simp only [regsUpTo, blockSize, List.mem_map, List.mem_range]
  constructor
  · rintro ⟨b, h, rfl⟩
    rw [BitVec.toNat_ofNat]
    omega
  · intro h
    exact ⟨r.toNat, by omega, by simp⟩

end Sys2Proof.Machine
end

