-- ==== Sys2Proof/Laws/Memory.lean ====
section
/-! SUPPORT. What each memory operation does, said once: a read after a write, the canonical form kept, the range
check, the byte lists and the block load. -/

namespace Sys2Proof.Machine

/-! ### Reading after one write -/

theorem Memory.read_filter_ne (m : Memory) (a k : Nat) (h : k ≠ a) :
    Memory.read (m.filter (fun c => c.1 != a)) k = m.read k := by
  induction m with
  | nil => rfl
  | cons c m ih =>
    obtain ⟨k', b⟩ := c
    by_cases hk : k' = a
    · subst hk; simp [Memory.read, h, ih]
    · by_cases hkk : k = k' <;> simp [Memory.read, hk, hkk, ih]

theorem Memory.read_filter_self (m : Memory) (a : Nat) :
    Memory.read (m.filter (fun c => c.1 != a)) a = blankByte a := by
  induction m with
  | nil => rfl
  | cons c m ih =>
    obtain ⟨k', b⟩ := c
    by_cases hk : k' = a
    · subst hk; simpa using ih
    · have hk' : a ≠ k' := fun e => hk e.symm
      simp [Memory.read, hk, hk', ih]

theorem Memory.read_insert_ne (m : Memory) (a k : Nat) (b : Byte) (h : k ≠ a) :
    Memory.read (Memory.insert m a b) k = m.read k := by
  induction m with
  | nil => simp [Memory.insert, Memory.read, h]
  | cons c m ih =>
    obtain ⟨k', b'⟩ := c
    unfold Memory.insert
    split
    · simp [Memory.read, h]
    · simp [Memory.read, ih]

theorem Memory.read_insert_self (m : Memory) (a : Nat) (b : Byte) (h : ∀ c ∈ m, c.1 ≠ a) :
    Memory.read (Memory.insert m a b) a = b := by
  induction m with
  | nil => simp [Memory.insert, Memory.read]
  | cons c m ih =>
    obtain ⟨k', b'⟩ := c
    have hk : a ≠ k' := fun e => h (k', b') (by simp) e.symm
    unfold Memory.insert
    split
    · simp [Memory.read]
    · simp [Memory.read, hk, ih (fun c hc => h c (List.mem_cons_of_mem _ hc))]

/-- A write changes exactly one byte (20_memory.md R49), in any memory. -/
theorem Memory.read_write (m : Memory) (a k : Nat) (b : Byte) :
    (m.write a b).read k = if k = a then b else m.read k := by
  unfold Memory.write
  by_cases hk : k = a
  · subst hk
    split
    · next hb => simp [Memory.read_filter_self, hb]
    · rw [Memory.read_insert_self _ _ _ (by simp)]
      simp
  · split <;> simp [Memory.read_insert_ne, Memory.read_filter_ne, hk]

/-! ### The canonical form -/

theorem Memory.mem_insert (m : Memory) (a : Nat) (b : Byte) (c : Host.Cell) :
    c ∈ Memory.insert m a b ↔ c = (a, b) ∨ c ∈ m := by
  induction m with
  | nil => simp [Memory.insert]
  | cons d m ih =>
    obtain ⟨k, e⟩ := d
    unfold Memory.insert
    split
    · simp
    · simp [ih]; tauto

theorem Memory.insert_rising (m : Memory) (a : Nat) (b : Byte) (h : m.Pairwise (fun c d => c.1 < d.1))
    (hne : ∀ c ∈ m, c.1 ≠ a) : (Memory.insert m a b).Pairwise (fun c d => c.1 < d.1) := by
  induction m with
  | nil => simp [Memory.insert]
  | cons c m ih =>
    obtain ⟨k, e⟩ := c
    rw [List.pairwise_cons] at h
    have hk : k ≠ a := hne (k, e) (by simp)
    unfold Memory.insert
    split
    · next hlt =>
      refine List.pairwise_cons.2 ⟨fun d hd => ?_, List.pairwise_cons.2 h⟩
      rcases List.mem_cons.1 hd with rfl | hd
      · exact hlt
      · exact lt_trans hlt (h.1 d hd)
    · next hlt =>
      refine List.pairwise_cons.2 ⟨fun d hd => ?_, ih h.2 (fun d hd => hne d (List.mem_cons_of_mem _ hd))⟩
      rcases (Memory.mem_insert m a b d).1 hd with rfl | hd
      · show k < a; omega
      · exact h.1 d hd

/-- A write inside the address space keeps the canonical form. -/
theorem Memory.write_wf {m : Memory} {a : Nat} {b : Byte} (h : m.wf) (ha : a < memSize) : (m.write a b).wf := by
  have hsub : ∀ c ∈ m.filter (fun c => c.1 != a), c ∈ m := fun c hc => (List.mem_filter.1 hc).1
  have hrise := h.1.filter (fun c => c.1 != a)
  unfold Memory.write
  split
  · exact ⟨hrise, fun c hc => h.2 c (hsub c hc)⟩
  · next hb =>
    refine ⟨Memory.insert_rising _ _ _ hrise (by simp), fun c hc => ?_⟩
    rcases (Memory.mem_insert _ _ _ _).1 hc with rfl | hc
    · exact ⟨ha, hb⟩
    · exact h.2 c (hsub c hc)

/-- Writing a list of bytes inside the address space keeps the canonical form. -/
theorem Memory.writeBytes_wf {m : Memory} {a : Nat} {bs : List Byte} (h : m.wf) (ha : a + bs.length ≤ memSize) :
    (m.writeBytes a bs).wf := by
  induction bs generalizing m a with
  | nil => exact h
  | cons b bs ih =>
    simp only [List.length_cons] at ha
    exact ih (Memory.write_wf h (by omega)) (by omega)

/-- Memory right after reset lists nothing, which is canonical. -/
theorem State.reset_mem_wf : State.reset.mem.wf := by decide

/-- The bytes written are read back, and every other byte is as before. -/
theorem Memory.read_writeBytes (m : Memory) (a : Nat) (bs : List Byte) (k : Nat) :
    (m.writeBytes a bs).read k = if a ≤ k ∧ k < a + bs.length then bs.getD (k - a) 0 else m.read k := by
  induction bs generalizing m a with
  | nil => simp [Memory.writeBytes]
  | cons b bs ih =>
    rw [Memory.writeBytes, ih, Memory.read_write]
    simp only [List.length_cons]
    by_cases hk : k = a
    · subst hk; simp
    · by_cases h : a + 1 ≤ k ∧ k < a + 1 + bs.length
      · have e : k - a = (k - (a + 1)) + 1 := by omega
        rw [if_pos h, if_pos (by omega), e, List.getD_cons_succ]
      · rw [if_neg h, if_neg hk, if_neg (by omega)]

theorem Memory.length_readBytes (m : Memory) (a n : Nat) : (m.readBytes a n).length = n := by
  induction n generalizing a with
  | zero => rfl
  | succ n ih => simp [Memory.readBytes, ih]

/-- The k-th byte of a list read from `a` is the byte at `a + k`. -/
theorem Memory.getD_readBytes (m : Memory) (a n k : Nat) (h : k < n) :
    (m.readBytes a n).getD k 0 = m.read (a + k) := by
  induction n generalizing a k with
  | zero => omega
  | succ n ih =>
    cases k with
    | zero => simp [Memory.readBytes]
    | succ k =>
      rw [Memory.readBytes, List.getD_cons_succ, ih (a + 1) k (by omega)]
      congr 1; omega

/-! ### The range check (20_memory.md R48) -/

/-- The check fails at the lowest address above 0xFFF, if the range has one. -/
theorem checkRange_eq (base n : Nat) :
    checkRange base n = if base + n ≤ memSize ∨ n = 0 then none else some (max base memSize) := by
  induction n generalizing base with
  | zero => simp [checkRange]
  | succ n ih =>
    unfold checkRange
    split
    · next h =>
      rw [ih]
      by_cases hn : n = 0
      · subst hn; simp; omega
      · by_cases hb : base + (n + 1) ≤ memSize
        · rw [if_pos (by omega), if_pos (by omega)]
        · rw [if_neg (by omega), if_neg (by omega)]; congr 1; omega
    · next h => rw [if_neg (by omega)]; congr 1; omega

theorem checkRange_none {base n : Nat} : checkRange base n = none ↔ base + n ≤ memSize ∨ n = 0 := by
  rw [checkRange_eq]; split <;> simp_all

theorem checkRange_some {base n a : Nat} (h : checkRange base n = some a) :
    base ≤ a ∧ a < base + n ∧ memSize ≤ a ∧ ∀ k, base ≤ k → k < a → k < memSize := by
  rw [checkRange_eq] at h
  split at h
  · simp at h
  · next hn =>
    simp only [Option.some.injEq] at h
    refine ⟨by omega, by omega, by omega, fun k _ _ => by omega⟩

/-- A checked operation either raises OutOfBoundsAccess and nothing else, or is its body. -/
theorem State.checked_cases (s : State) (base n : Nat) (body : State) :
    (∃ a, checkRange base n = some a ∧ s.checked base n body = s.raise .outOfBoundsAccess none (some a) none) ∨
      (checkRange base n = none ∧ s.checked base n body = body) := by
  unfold State.checked
  cases h : checkRange base n with
  | none => exact .inr ⟨rfl, rfl⟩
  | some a => exact .inl ⟨a, rfl, rfl⟩

/-! ### The state's bytes -/

/-- A store changes the bytes at the stored addresses, and no other. -/
theorem State.storeBytes_byteAt (s : State) (a : Nat) (bs : List Byte) (k : Nat) :
    (s.storeBytes a bs).byteAt k = if a ≤ k ∧ k < a + bs.length then bs.getD (k - a) 0 else s.byteAt k :=
  Memory.read_writeBytes s.mem a bs k

/-- The block load writes exactly its first `n` registers, each with its byte. -/
theorem getElem_loadRegs (m : Memory) (base n : Nat) (v : Vector Byte 16) (j : Nat) (hj : j < 16) :
    (loadRegs m base n v)[j] = if j < n then m.read (base + j) else v[j] := by
  induction n with
  | zero => simp [loadRegs]
  | succ n ih =>
    rw [loadRegs, Vector.getElem_setIfInBounds, ih]
    by_cases h : n = j
    · subst h; simp
    · rw [if_neg h]
      by_cases hj' : j < n
      · rw [if_pos hj', if_pos (by omega)]
      · rw [if_neg hj', if_neg (by omega)]

theorem State.loadBlock_getV (s : State) (a n : Nat) (r : Reg) :
    (s.loadBlock a n).getV r = if r.toNat < n then s.byteAt (a + r.toNat) else s.getV r :=
  getElem_loadRegs s.mem a n s.v r.toNat r.isLt

theorem length_regBlock (s : State) (x : Reg) : (s.regBlock x).length = blockSize x := by
  have := x.isLt
  simp [State.regBlock, blockSize]
  omega

/-- The k-th byte of a register block is V[k]. -/
theorem getD_regBlock (s : State) (x r : Reg) (h : r.toNat ≤ x.toNat) :
    (s.regBlock x).getD r.toNat 0 = s.getV r := by
  have hr := r.isLt
  simp only [State.regBlock, blockSize, State.getV, List.getD_eq_getElem?_getD]
  rw [List.getElem?_take_of_lt (by omega)]
  simp [Vector.getElem_toList, hr]

end Sys2Proof.Machine
end

