-- ==== Sys2Proof/Laws/Ops.lean ====
section
/-! SUPPORT. What each shared operation over registers, flags, the stack, the timers and the fetch does, said once. -/

namespace Sys2Proof.Machine

/-! ### Registers -/

/-- A register write is read back from its register, and every other register is as before. -/
theorem State.getV_setV (s : State) (r q : Reg) (b : Byte) :
    (s.setV r b).getV q = if q = r then b else s.getV q := by
  simp only [State.getV, State.setV, Vector.getElem_set, BitVec.toNat_inj, eq_comm]

@[simp] theorem State.getV_setV_self (s : State) (r : Reg) (b : Byte) : (s.setV r b).getV r = b := by
  simp [State.getV_setV]

theorem State.getV_setV_ne (s : State) {r q : Reg} (b : Byte) (h : q ≠ r) : (s.setV r b).getV q = s.getV q := by
  simp [State.getV_setV, h]

/-- A flag write overwrites VF and nothing else (10_state.md R20). -/
theorem State.getV_setFlag (s : State) (q : Reg) (c : Bool) :
    (s.setFlag c).getV q = if q = Reg.flag then (if c then 0x01#8 else 0x00#8) else s.getV q :=
  s.getV_setV Reg.flag q _

/-! ### Arithmetic -/

theorem sumByte_toNat (a b : Byte) : (sumByte a b).toNat = (a.toNat + b.toNat) % 256 := by
  simp [sumByte]

theorem sumByte_eq (a b : Byte) : sumByte a b = a + b := by
  apply BitVec.eq_of_toNat_eq; simp [sumByte]

theorem diffByte_eq (a b : Byte) : diffByte a b = a - b := by
  have := a.isLt; have := b.isLt
  apply BitVec.eq_of_toNat_eq
  rw [diffByte, BitVec.toNat_ofInt, BitVec.toNat_sub]
  omega

theorem diffByte_toNat (a b : Byte) :
    (diffByte a b).toNat = if b.toNat ≤ a.toNat then a.toNat - b.toNat else a.toNat + 256 - b.toNat := by
  have := a.isLt; have := b.isLt
  rw [diffByte_eq, BitVec.toNat_sub]
  split <;> omega

theorem shiftRight_toNat (b : Byte) : (shiftRight b).toNat = b.toNat / 2 := by
  simp [shiftRight, Nat.shiftRight_eq_div_pow]

theorem shiftLeft_toNat (b : Byte) : (shiftLeft b).toNat = b.toNat * 2 % 256 := by
  simp [shiftLeft, Nat.shiftLeft_eq]

theorem rightOut_iff (b : Byte) : rightOut b = true ↔ b.toNat % 2 = 1 := by
  simp [rightOut, BitVec.getLsbD, Nat.testBit_zero]

theorem leftOut_iff (b : Byte) : leftOut b = true ↔ 128 ≤ b.toNat := by
  have := b.isLt
  simp only [leftOut, BitVec.getLsbD, Nat.testBit_eq_decide_div_mod_eq, decide_eq_true_eq]
  omega

/-! ### The return stack -/

/-- A push either finds 16 frames, or stores its word in the slot SD and counts the frame. -/
theorem State.push_cases (s : State) (w : Word) :
    (s.sd.val = 16 ∧ s.push w = none) ∨
      ∃ h : s.sd.val < 16, s.push w =
        some { s with stack := s.stack.set s.sd.val w, sd := ⟨s.sd.val + 1, by omega⟩ } := by
  unfold State.push
  by_cases h : s.sd.val < 16
  · exact .inr ⟨h, by simp [h]⟩
  · exact .inl ⟨by omega, by simp [h]⟩

/-- A pop either finds no frame, or answers the most recent slot and uncounts its frame. -/
theorem State.pop_cases (s : State) :
    (s.sd.val = 0 ∧ s.pop = none) ∨
      ∃ _h : 0 < s.sd.val, s.pop =
        some (s.stack[s.sd.val - 1], { s with sd := ⟨s.sd.val - 1, by omega⟩ }) := by
  unfold State.pop
  by_cases h : s.sd.val = 0
  · exact .inl ⟨h, by simp [h]⟩
  · exact .inr ⟨by omega, by simp [h]⟩

/-! ### Timers -/

/-- A timer counts down and stays at 0 (10_state.md R30). -/
theorem countDown_toNat (b : Byte) : (countDown b).toNat = b.toNat - 1 := by
  have hb := b.isLt
  unfold countDown
  split
  · next h => subst h; rfl
  · next h =>
    have h0 : b.toNat ≠ 0 := fun e => h (BitVec.eq_of_toNat_eq (by simpa using e))
    rw [BitVec.toNat_sub]
    simp
    omega

/-- A tick either only moves the divider, or ends its round and counts both timers down. -/
theorem State.tick_cases (s : State) :
    (s.tdiv + 1 = s.config.timerDivider ∧
        s.tick = { s with tdiv := 0, dt := countDown s.dt, st := countDown s.st }) ∨
      (s.tdiv + 1 ≠ s.config.timerDivider ∧ s.tick = { s with tdiv := s.tdiv + 1 }) := by
  unfold State.tick
  by_cases h : s.tdiv + 1 = s.config.timerDivider
  · exact .inl ⟨h, by simp [h]⟩
  · exact .inr ⟨h, by simp [h]⟩

theorem State.tick_tdiv (s : State) :
    s.tick.tdiv = if s.tdiv + 1 = s.config.timerDivider then 0 else s.tdiv + 1 := by
  unfold State.tick; split <;> rfl

theorem State.tick_dt (s : State) :
    s.tick.dt = if s.tdiv + 1 = s.config.timerDivider then countDown s.dt else s.dt := by
  unfold State.tick; split <;> rfl

theorem State.tick_st (s : State) :
    s.tick.st = if s.tdiv + 1 = s.config.timerDivider then countDown s.st else s.st := by
  unfold State.tick; split <;> rfl

/-! ### Fetch -/

/-- A fetch answers the big-endian word at PC, or fails at the first of its addresses that does not exist. -/
theorem State.fetchWord_cases (s : State) :
    (s.pc.toNat + 1 < memSize ∧
        s.fetchWord = .ok (wordOfBytes (s.byteAt s.pc.toNat) (s.byteAt (s.pc.toNat + 1)))) ∨
      (memSize ≤ s.pc.toNat + 1 ∧ s.fetchWord = .error (max s.pc.toNat memSize)) := by
  unfold State.fetchWord
  rw [checkRange_eq]
  by_cases h : s.pc.toNat + 2 ≤ memSize
  · exact .inl ⟨by omega, by simp [h]⟩
  · exact .inr ⟨by omega, by simp [h]⟩

/-- A placed word is the word fetched next, on a machine that is about to fetch. -/
theorem State.fetchWord_placeWord (s : State) (w : Word) :
    (s.placeWord w).fetchWord = .ok w ∧ (s.placeWord w).fault = none ∧ (s.placeWord w).halt = false := by
  refine ⟨?_, rfl, rfl⟩
  have hpc : (s.placeWord w).pc.toNat + 1 < memSize := by
    show (if s.pc.toNat + 1 < memSize then s.pc else BitVec.ofNat 16 programBase).toNat + 1 < memSize
    split
    · assumption
    · decide
  rcases (s.placeWord w).fetchWord_cases with ⟨_, h⟩ | ⟨h, _⟩
  · rw [h]
    have hb : ∀ k, (s.placeWord w).byteAt k =
        if (s.placeWord w).pc.toNat ≤ k ∧ k < (s.placeWord w).pc.toNat + 2 then
          [highByte w, lowByte w].getD (k - (s.placeWord w).pc.toNat) 0 else s.byteAt k :=
      fun k => Memory.read_writeBytes s.mem _ [highByte w, lowByte w] k
    rw [hb, hb]
    simp
  · omega

/-! ### Key skips -/

/-- A key skip either raises KeyIndexOutOfRange with the value of Vx, or skips on the level of that key. -/
theorem State.keySkip_cases (s : State) (x : Reg) (want : Bool) :
    (15 < (s.getV x).toNat ∧
        s.keySkip x want = s.raise .keyIndexOutOfRange none none (some (s.getV x))) ∨
      ((s.getV x).toNat ≤ 15 ∧ s.keySkip x want = s.skipIf (s.keyDown ((s.getV x).setWidth 4) == want)) := by
  unfold State.keySkip
  by_cases h : (s.getV x).toNat > 15
  · exact .inl ⟨h, by simp [h]⟩
  · exact .inr ⟨by omega, by simp [h]⟩

end Sys2Proof.Machine
end

