-- ==== Sys2Proof/Laws/HostOps.lean ====
section
/-! SUPPORT. What the host's operations do, said once (60_exceptions.md R133): the bytes boot leaves, the key table, the
cases of a key event and of render. -/

namespace Sys2Proof.Machine

theorem length_fontTable : fontTable.length = 80 := by decide

/-- The default of the font parameter is the table of 20_memory.md R46. -/
@[simp] theorem defaultConfig_font : defaultConfig.font.toList = fontTable := rfl

/-- A byte of the font parameter, as an element of its list. -/
theorem getD_font (c : Config) {a : Nat} (h : a < 80) : c.font.toList.getD a 0 = c.font[a] := by
  simp [h]

/-- Boot sets every byte of MEM, 4096 in all (20_memory.md R47). -/
theorem length_bootBytes (c : Config) {image : List Byte} (h : image.length ≤ maxImage) :
    (bootBytes c image).length = memSize := by
  simp only [bootBytes, List.length_append, List.length_replicate, Vector.length_toList, memSize]
  simp only [programBase, maxImage] at *
  omega

/-- The elements of a list laid out as boot lays out memory. -/
theorem getD_layout (f image : List Byte) (m n : Nat) (x : Byte) (a : Nat) :
    (f ++ List.replicate m x ++ image ++ List.replicate n x).getD a 0 =
      if a < f.length then f.getD a 0
      else if a < f.length + m then x
      else if a < f.length + m + image.length then image.getD (a - (f.length + m)) 0
      else if a < f.length + m + image.length + n then x else 0 := by
  simp only [List.getD_eq_getElem?_getD, List.append_assoc]
  by_cases h1 : a < f.length
  · rw [if_pos h1, List.getElem?_append_left h1]
  rw [if_neg h1, List.getElem?_append_right (by omega)]
  by_cases h2 : a < f.length + m
  · rw [if_pos h2, List.getElem?_append_left (by simp; omega), List.getElem?_replicate, if_pos (by omega)]
    rfl
  rw [if_neg h2, List.getElem?_append_right (by simp; omega), List.length_replicate]
  by_cases h3 : a < f.length + m + image.length
  · rw [if_pos h3, List.getElem?_append_left (by omega), Nat.sub_sub]
  rw [if_neg h3, List.getElem?_append_right (by omega), List.getElem?_replicate]
  by_cases h4 : a < f.length + m + image.length + n
  · rw [if_pos h4, if_pos (by omega)]
    rfl
  · rw [if_neg h4, if_neg (by omega)]
    rfl

/-- The byte boot leaves at each address: font, fill, image, fill (20_memory.md R45). -/
theorem getD_bootBytes (c : Config) {image : List Byte} (h : image.length ≤ maxImage) (a : Nat) :
    (bootBytes c image).getD a 0 =
      if a < 80 then c.font.toList.getD a 0
      else if a < programBase then c.memFill
      else if a < programBase + image.length then image.getD (a - programBase) 0
      else if a < memSize then c.memFill else 0 := by
  have h1 : 80 + (programBase - 80) = programBase := rfl
  have h2 : programBase + image.length + (maxImage - image.length) = memSize := by
    simp only [programBase, maxImage, memSize] at *; omega
  rw [bootBytes, getD_layout, Vector.length_toList, h1, h2]

section BootState

variable (c : Config) (d : Nat) (image : List Byte)

@[simp] theorem bootState_v : (bootState c d image).v = Vector.replicate 16 0x00#8 := rfl
@[simp] theorem bootState_i : (bootState c d image).i = 0x0000#16 := rfl
@[simp] theorem bootState_pc : (bootState c d image).pc = 0x0200#16 := rfl
@[simp] theorem bootState_stack : (bootState c d image).stack = Vector.replicate 16 0x0000#16 := rfl
@[simp] theorem bootState_sd : (bootState c d image).sd = 0 := rfl
@[simp] theorem bootState_dt : (bootState c d image).dt = 0x00#8 := rfl
@[simp] theorem bootState_st : (bootState c d image).st = 0x00#8 := rfl
@[simp] theorem bootState_tdiv : (bootState c d image).tdiv = 0 := rfl
@[simp] theorem bootState_halt : (bootState c d image).halt = false := rfl
@[simp] theorem bootState_haltReg : (bootState c d image).haltReg = 0x0#4 := rfl
@[simp] theorem bootState_mem : (bootState c d image).mem = bootMemory c image := rfl
@[simp] theorem bootState_fb : (bootState c d image).fb = blankScreen := rfl
@[simp] theorem bootState_dirty : (bootState c d image).dirty = false := rfl
@[simp] theorem bootState_key : (bootState c d image).key = Vector.replicate 16 false := rfl
@[simp] theorem bootState_fault : (bootState c d image).fault = none := rfl
@[simp] theorem bootState_config : (bootState c d image).config = c := rfl
@[simp] theorem bootState_draws : (bootState c d image).draws = d := rfl

end BootState

/-- The bytes of a booted machine. -/
theorem bootState_byteAt (c : Config) (d : Nat) {image : List Byte} (h : image.length ≤ maxImage) (a : Nat)
    (ha : a < memSize) : (bootState c d image).byteAt a = (bootBytes c image).getD a 0 := by
  have hl := length_bootBytes c h
  unfold State.byteAt
  rw [bootState_mem, bootMemory]
  generalize bootBytes c image = bs at hl ⊢
  rw [Memory.read_writeBytes, if_pos (by omega), Nat.sub_zero]

/-- The memory that boot leaves is in its canonical form. -/
theorem bootMemory_wf (c : Config) {image : List Byte} (h : image.length ≤ maxImage) : (bootMemory c image).wf := by
  have hl := length_bootBytes c h
  have h0 : Memory.wf [] := ⟨List.Pairwise.nil, fun _ hc => absurd hc List.not_mem_nil⟩
  rw [bootMemory]
  generalize bootBytes c image = bs at hl ⊢
  exact Memory.writeBytes_wf h0 (by omega)

/-- Bytes that an unlisted address reads as are never listed. -/
theorem Memory.writeBytes_blank (a : Nat) (bs : List Byte)
    (h : ∀ k, k < bs.length → bs.getD k 0 = blankByte (a + k)) : Memory.writeBytes [] a bs = [] := by
  induction bs generalizing a with
  | nil => rfl
  | cons b bs ih =>
    have h0 : b = blankByte a := by simpa using h 0 (by simp)
    have hw : Memory.write [] a b = [] := by simp [Memory.write, h0]
    rw [Memory.writeBytes, hw]
    refine ih (a + 1) (fun k hk => ?_)
    have := h (k + 1) (by simpa using hk)
    rw [List.getD_cons_succ] at this
    rw [this]
    congr 1
    omega

/-- A key event sets its key and no other. -/
theorem State.setKey_keyDown (s : State) (k j : Key) (p : Bool) :
    (s.setKey k p).keyDown j = if j = k then p else s.keyDown j := by
  simp only [State.keyDown, State.setKey, Vector.getElem_set, BitVec.toNat_inj, eq_comm]

/-- A key event either resolves a pending key wait or only updates the key table (44_keypad_timers.md R118). -/
theorem State.handleKeyEvent_cases (s : State) (k : Key) (p : Bool) :
    (s.halt = true ∧ p = true ∧ s.keyDown k = false ∧
        s.handleKeyEvent k p = (s.setKey k p).resolveKeyWait k) ∨
      (¬(s.halt = true ∧ p = true ∧ s.keyDown k = false) ∧ s.handleKeyEvent k p = s.setKey k p) := by
  unfold State.handleKeyEvent
  cases s.halt <;> cases p <;> cases s.keyDown k <;> simp

/-- Render either consumes DIRTY or does nothing. -/
theorem State.render_cases (s : State) :
    (s.dirty = true ∧ s.render = (some s.fb, { s with dirty := false })) ∨
      (s.dirty = false ∧ s.render = (none, s)) := by
  unfold State.render
  cases s.dirty <;> simp

end Sys2Proof.Machine
end

