-- ==== Sys2Proof/Laws/PerInstr.lean ====
section
/-! SUPPORT. Statements made per instruction: every instruction's word, under its row's mask, is its row's match in
spec/opcode_table.json. -/

namespace Sys2Proof.Laws.TableMask

/-- The match and the mask of an instruction's row in spec/opcode_table.json. -/
def tableRow : Instr → Word × Word
  | .cls => (0x00E0#16, 0xFFFF#16)
  | .ret => (0x00EE#16, 0xFFFF#16)
  | .sys _ => (0x0000#16, 0xF000#16)
  | .jp _ => (0x1000#16, 0xF000#16)
  | .call _ => (0x2000#16, 0xF000#16)
  | .seImm _ _ => (0x3000#16, 0xF000#16)
  | .sneImm _ _ => (0x4000#16, 0xF000#16)
  | .seReg _ _ => (0x5000#16, 0xF00F#16)
  | .ldImm _ _ => (0x6000#16, 0xF000#16)
  | .addImm _ _ => (0x7000#16, 0xF000#16)
  | .ldReg _ _ => (0x8000#16, 0xF00F#16)
  | .orReg _ _ => (0x8001#16, 0xF00F#16)
  | .andReg _ _ => (0x8002#16, 0xF00F#16)
  | .xorReg _ _ => (0x8003#16, 0xF00F#16)
  | .addReg _ _ => (0x8004#16, 0xF00F#16)
  | .sub _ _ => (0x8005#16, 0xF00F#16)
  | .shr _ _ => (0x8006#16, 0xF00F#16)
  | .subn _ _ => (0x8007#16, 0xF00F#16)
  | .shl _ _ => (0x800E#16, 0xF00F#16)
  | .sneReg _ _ => (0x9000#16, 0xF00F#16)
  | .ldI _ => (0xA000#16, 0xF000#16)
  | .jpV0 _ => (0xB000#16, 0xF000#16)
  | .rnd _ _ => (0xC000#16, 0xF000#16)
  | .drw _ _ _ => (0xD000#16, 0xF000#16)
  | .skp _ => (0xE09E#16, 0xF0FF#16)
  | .sknp _ => (0xE0A1#16, 0xF0FF#16)
  | .ldVxDT _ => (0xF007#16, 0xF0FF#16)
  | .ldVxK _ => (0xF00A#16, 0xF0FF#16)
  | .ldDTVx _ => (0xF015#16, 0xF0FF#16)
  | .ldSTVx _ => (0xF018#16, 0xF0FF#16)
  | .addI _ => (0xF01E#16, 0xF0FF#16)
  | .ldF _ => (0xF029#16, 0xF0FF#16)
  | .ldB _ => (0xF033#16, 0xF0FF#16)
  | .ldMemVx _ => (0xF055#16, 0xF0FF#16)
  | .ldVxMem _ => (0xF065#16, 0xF0FF#16)

/-- The word of `i`, under the mask of its row, is the row's match. -/
def Statement (i : Instr) : Prop := encode i &&& (tableRow i).2 = (tableRow i).1

/-- The mask 0xF000 keeps the major opcode. -/
theorem and_F000 (w : Word) : w &&& 0xF000#16 = wordFXY (opField w) 0x0#4 0x0#4 0x0#4 := by
  apply BitVec.eq_of_getLsbD_eq
  intro i hi
  rw [BitVec.getLsbD_and, getLsbD_wordFXY]
  interval_cases i <;> simp [opField]

/-- The mask 0xF00F keeps the major opcode and the selector sub4. -/
theorem and_F00F (w : Word) : w &&& 0xF00F#16 = wordFXY (opField w) 0x0#4 0x0#4 (nField w) := by
  apply BitVec.eq_of_getLsbD_eq
  intro i hi
  rw [BitVec.getLsbD_and, getLsbD_wordFXY]
  interval_cases i <;> simp [opField, nField]

/-- The mask 0xF0FF keeps the major opcode and the selector sub8. -/
theorem and_F0FF (w : Word) : w &&& 0xF0FF#16 = wordFXK (opField w) 0x0#4 (kkField w) := by
  apply BitVec.eq_of_getLsbD_eq
  intro i hi
  rw [BitVec.getLsbD_and, getLsbD_wordFXK]
  interval_cases i <;> simp [opField, kkField]

theorem cls : Statement (.cls) := rfl

theorem ret : Statement (.ret) := rfl

theorem sys (nnn : Addr12) : Statement (.sys nnn) := by
  simp [Statement, tableRow, encode, and_F000]; decide

theorem jp (nnn : Addr12) : Statement (.jp nnn) := by
  simp [Statement, tableRow, encode, and_F000]; decide

theorem call (nnn : Addr12) : Statement (.call nnn) := by
  simp [Statement, tableRow, encode, and_F000]; decide

theorem seImm (x : Reg) (kk : Byte) : Statement (.seImm x kk) := by
  simp [Statement, tableRow, encode, and_F000]; decide

theorem sneImm (x : Reg) (kk : Byte) : Statement (.sneImm x kk) := by
  simp [Statement, tableRow, encode, and_F000]; decide

theorem seReg (x y : Reg) : Statement (.seReg x y) := by
  simp [Statement, tableRow, encode, and_F00F]; decide

theorem ldImm (x : Reg) (kk : Byte) : Statement (.ldImm x kk) := by
  simp [Statement, tableRow, encode, and_F000]; decide

theorem addImm (x : Reg) (kk : Byte) : Statement (.addImm x kk) := by
  simp [Statement, tableRow, encode, and_F000]; decide

theorem ldReg (x y : Reg) : Statement (.ldReg x y) := by
  simp [Statement, tableRow, encode, and_F00F]; decide

theorem orReg (x y : Reg) : Statement (.orReg x y) := by
  simp [Statement, tableRow, encode, and_F00F]; decide

theorem andReg (x y : Reg) : Statement (.andReg x y) := by
  simp [Statement, tableRow, encode, and_F00F]; decide

theorem xorReg (x y : Reg) : Statement (.xorReg x y) := by
  simp [Statement, tableRow, encode, and_F00F]; decide

theorem addReg (x y : Reg) : Statement (.addReg x y) := by
  simp [Statement, tableRow, encode, and_F00F]; decide

theorem sub (x y : Reg) : Statement (.sub x y) := by
  simp [Statement, tableRow, encode, and_F00F]; decide

theorem shr (x y : Reg) : Statement (.shr x y) := by
  simp [Statement, tableRow, encode, and_F00F]; decide

theorem subn (x y : Reg) : Statement (.subn x y) := by
  simp [Statement, tableRow, encode, and_F00F]; decide

theorem shl (x y : Reg) : Statement (.shl x y) := by
  simp [Statement, tableRow, encode, and_F00F]; decide

theorem sneReg (x y : Reg) : Statement (.sneReg x y) := by
  simp [Statement, tableRow, encode, and_F00F]; decide

theorem ldI (nnn : Addr12) : Statement (.ldI nnn) := by
  simp [Statement, tableRow, encode, and_F000]; decide

theorem jpV0 (nnn : Addr12) : Statement (.jpV0 nnn) := by
  simp [Statement, tableRow, encode, and_F000]; decide

theorem rnd (x : Reg) (kk : Byte) : Statement (.rnd x kk) := by
  simp [Statement, tableRow, encode, and_F000]; decide

theorem drw (x y : Reg) (n : Nibble) : Statement (.drw x y n) := by
  simp [Statement, tableRow, encode, and_F000]; decide

theorem skp (x : Reg) : Statement (.skp x) := by
  simp [Statement, tableRow, encode, and_F0FF]; decide

theorem sknp (x : Reg) : Statement (.sknp x) := by
  simp [Statement, tableRow, encode, and_F0FF]; decide

theorem ldVxDT (x : Reg) : Statement (.ldVxDT x) := by
  simp [Statement, tableRow, encode, and_F0FF]; decide

theorem ldVxK (x : Reg) : Statement (.ldVxK x) := by
  simp [Statement, tableRow, encode, and_F0FF]; decide

theorem ldDTVx (x : Reg) : Statement (.ldDTVx x) := by
  simp [Statement, tableRow, encode, and_F0FF]; decide

theorem ldSTVx (x : Reg) : Statement (.ldSTVx x) := by
  simp [Statement, tableRow, encode, and_F0FF]; decide

theorem addI (x : Reg) : Statement (.addI x) := by
  simp [Statement, tableRow, encode, and_F0FF]; decide

theorem ldF (x : Reg) : Statement (.ldF x) := by
  simp [Statement, tableRow, encode, and_F0FF]; decide

theorem ldB (x : Reg) : Statement (.ldB x) := by
  simp [Statement, tableRow, encode, and_F0FF]; decide

theorem ldMemVx (x : Reg) : Statement (.ldMemVx x) := by
  simp [Statement, tableRow, encode, and_F0FF]; decide

theorem ldVxMem (x : Reg) : Statement (.ldVxMem x) := by
  simp [Statement, tableRow, encode, and_F0FF]; decide

end Sys2Proof.Laws.TableMask
end

