-- ==== Sys2Proof/Laws/Step.lean ====
section
/-! SUPPORT. What a step can do, said once (70_reset_and_hazards.md R139). -/

namespace Sys2Proof.Machine

/-- Every step is one of these: no transition of a faulted machine, nothing while a key wait is pending, a fetch fault,
an illegal word, or the decoded instruction and the end of its step. -/
theorem step_cases (s : State) :
    (∃ r, s.fault = some r ∧ step s = .fault (.machineFaulted r)) ∨
    (s.fault = none ∧ s.halt = true ∧ step s = .next s) ∨
    (∃ a, s.fault = none ∧ s.halt = false ∧ s.fetchWord = .error a ∧
      step s = .next (s.raise .outOfBoundsAccess none (some a) none)) ∨
    (∃ w e, s.fault = none ∧ s.halt = false ∧ s.fetchWord = .ok w ∧ decode w = .error e ∧
      step s = .next (s.raise .illegalOpcode (some w) none none)) ∨
    (∃ w i, s.fault = none ∧ s.halt = false ∧ s.fetchWord = .ok w ∧ decode w = .ok i ∧
      step s = endResult (exec i s)) := by
  unfold step
  cases hf : s.fault with
  | some r => exact .inl ⟨r, rfl, rfl⟩
  | none =>
    cases hh : s.halt with
    | true => exact .inr (.inl ⟨rfl, rfl, rfl⟩)
    | false =>
      cases hw : s.fetchWord with
      | error a => exact .inr (.inr (.inl ⟨a, rfl, rfl, rfl, rfl⟩))
      | ok w =>
        cases hd : decode w with
        | error e => exact .inr (.inr (.inr (.inl ⟨w, e, rfl, rfl, rfl, hd, by simp [hd]⟩)))
        | ok i => exact .inr (.inr (.inr (.inr ⟨w, i, rfl, rfl, rfl, hd, by simp [hd]⟩)))

@[simp] theorem endResult_next (s : State) : endResult (.next s) = .next s.endStep := rfl

theorem State.endStep_faulted {s : State} {r : FaultRecord} (h : s.fault = some r) : s.endStep = s := by
  simp [State.endStep, h]

theorem State.endStep_running {s : State} (h : s.fault = none) : s.endStep = s.tick := by
  simp [State.endStep, h]

end Sys2Proof.Machine
end

