-- ==== Sys2Proof/Tests/Slice0.lean ====
section
/-! SUPPORT. The model's own tests. Expected values come from spec/95_test_vectors.md (its vector ids stand in the comments)
and from the words of 30_encoding.md R61 and R62; then, for every statement with hypotheses, a state that meets them. -/

namespace Sys2Proof.Tests

open Sys2Proof Sys2Proof.Machine

/-! ### Helpers -/

/-- A part of the next state, if there is one. -/
def see {α : Type} (r : Result) (f : State → α) : Option α :=
  match r with
  | .next t => some (f t)
  | .fault _ => none
  | .refused _ => none

theorem next_of_see {α : Type} {r : Result} {f : State → α} {b : α} (h : see r f = some b) :
    ∃ t, r = .next t ∧ f t = b := by
  cases r with
  | next t => exact ⟨t, rfl, Option.some.inj h⟩
  | fault _ => cases h
  | refused _ => cases h

/-- The boot state with some registers set. -/
def withRegs (l : List (Reg × Byte)) : State := l.foldl (fun s p => s.setV p.1 p.2) State.reset

/-- A state with the bytes at an address set and I pointing there. -/
def withData (s : State) (a : Nat) (bs : List Byte) : State := (s.storeBytes a bs).setI (BitVec.ofNat 16 a)

/-- One step of the instruction with this word, at PC. -/
def run (s : State) (w : Nat) : Result := step (s.withFetchWord 16 w)

/-- The bytes at an address. -/
def bytesAt (s : State) (a n : Nat) : List Byte := s.mem.readBytes a n

/-- The columns of a row whose pixels are on. -/
def lit (s : State) (y : Nat) : List Nat := (List.range 64).filter (fun x => s.fb.pixel x y)

/-! ### Well-formedness -/

theorem test_sys_is_not_cls : ¬ (Instr.sys 0x0E0#12).WellFormed := by decide
theorem test_sys_is_not_ret : ¬ (Instr.sys 0x0EE#12).WellFormed := by decide

/-! ### Decoding: one word of every row, from the formats of R61 and the table of R62 -/

theorem test_decode_cls : decode 0b0000000011100000#16 = .ok (.cls) := by decide
theorem test_decode_ret : decode 0b0000000011101110#16 = .ok (.ret) := by decide
theorem test_decode_sys : decode 0b0000000100100011#16 = .ok (.sys 0x123#12) := by decide
theorem test_decode_jp : decode 0b0001101010111100#16 = .ok (.jp 0xABC#12) := by decide
theorem test_decode_call : decode 0b0010001100000000#16 = .ok (.call 0x300#12) := by decide
theorem test_decode_seImm : decode 0b0011001100010000#16 = .ok (.seImm 0x3#4 0x10#8) := by decide
theorem test_decode_sneImm : decode 0b0100001100010001#16 = .ok (.sneImm 0x3#4 0x11#8) := by decide
theorem test_decode_seReg : decode 0b0101000100100000#16 = .ok (.seReg 0x1#4 0x2#4) := by decide
theorem test_decode_ldImm : decode 0b0110101001000010#16 = .ok (.ldImm 0xA#4 0x42#8) := by decide
theorem test_decode_addImm : decode 0b0111001000000011#16 = .ok (.addImm 0x2#4 0x03#8) := by decide
theorem test_decode_ldReg : decode 0b1000000000010000#16 = .ok (.ldReg 0x0#4 0x1#4) := by decide
theorem test_decode_orReg : decode 0b1000000000010001#16 = .ok (.orReg 0x0#4 0x1#4) := by decide
theorem test_decode_andReg : decode 0b1000000000010010#16 = .ok (.andReg 0x0#4 0x1#4) := by decide
theorem test_decode_xorReg : decode 0b1000010101100011#16 = .ok (.xorReg 0x5#4 0x6#4) := by decide
theorem test_decode_addReg : decode 0b1000111100010100#16 = .ok (.addReg 0xF#4 0x1#4) := by decide
theorem test_decode_sub : decode 0b1000000000010101#16 = .ok (.sub 0x0#4 0x1#4) := by decide
theorem test_decode_shr : decode 0b1000000011110110#16 = .ok (.shr 0x0#4 0xF#4) := by decide
theorem test_decode_subn : decode 0b1000000100100111#16 = .ok (.subn 0x1#4 0x2#4) := by decide
theorem test_decode_shl : decode 0b1000111100011110#16 = .ok (.shl 0xF#4 0x1#4) := by decide
theorem test_decode_sneReg : decode 0b1001000100100000#16 = .ok (.sneReg 0x1#4 0x2#4) := by decide
theorem test_decode_ldI : decode 0b1010001011110000#16 = .ok (.ldI 0x2F0#12) := by decide
theorem test_decode_jpV0 : decode 0b1011001100000000#16 = .ok (.jpV0 0x300#12) := by decide
theorem test_decode_rnd : decode 0b1100001100001111#16 = .ok (.rnd 0x3#4 0x0F#8) := by decide
theorem test_decode_drw : decode 0b1101000100100101#16 = .ok (.drw 0x1#4 0x2#4 0x5#4) := by decide
theorem test_decode_skp : decode 0b1110010110011110#16 = .ok (.skp 0x5#4) := by decide
theorem test_decode_sknp : decode 0b1110010110100001#16 = .ok (.sknp 0x5#4) := by decide
theorem test_decode_ldVxDT : decode 0b1111001100000111#16 = .ok (.ldVxDT 0x3#4) := by decide
theorem test_decode_ldVxK : decode 0b1111010100001010#16 = .ok (.ldVxK 0x5#4) := by decide
theorem test_decode_ldDTVx : decode 0b1111001000010101#16 = .ok (.ldDTVx 0x2#4) := by decide
theorem test_decode_ldSTVx : decode 0b1111001000011000#16 = .ok (.ldSTVx 0x2#4) := by decide
theorem test_decode_addI : decode 0b1111010000011110#16 = .ok (.addI 0x4#4) := by decide
theorem test_decode_ldF : decode 0b1111011100101001#16 = .ok (.ldF 0x7#4) := by decide
theorem test_decode_ldB : decode 0b1111001100110011#16 = .ok (.ldB 0x3#4) := by decide
theorem test_decode_ldMemVx : decode 0b1111001001010101#16 = .ok (.ldMemVx 0x2#4) := by decide
theorem test_decode_ldVxMem : decode 0b1111000101100101#16 = .ok (.ldVxMem 0x1#4) := by decide

/-- CF-11, ALU-26, KEY-9, L1-9. -/
theorem test_decode_illegal :
    [0x5121#16, 0x9121#16, 0x8008#16, 0x800F#16, 0xE000#16, 0xE09F#16, 0xF075#16, 0xFFFF#16].map decode =
      [.error (.illegal 0x5121#16), .error (.illegal 0x9121#16), .error (.illegal 0x8008#16),
        .error (.illegal 0x800F#16), .error (.illegal 0xE000#16), .error (.illegal 0xE09F#16),
        .error (.illegal 0xF075#16), .error (.illegal 0xFFFF#16)] := by decide
theorem test_decodeBytes_short : decodeBytes [0x12#8] = .error (.truncated 1) := by decide
theorem test_decodeTableWord : decodeTableWord 16 0xD125 = some (.drw 0x1#4 0x2#4 0x5#4) := by decide
theorem test_decodeTableWord_illegal : decodeTableWord 16 0xF075 = none := by decide

/-! ### Control flow (vectors CF-1 to CF-20) -/

/-- CF-1. -/
theorem test_jp : see (run State.reset 0x1ABC) (fun t => (t.pc, t.tdiv)) = some (0xABC#16, 1) := by decide
/-- CF-2. -/
theorem test_call : see (run State.reset 0x2300) (fun t => (t.stack[0], t.sd, t.pc)) =
    some (0x202#16, 1, 0x300#16) := by decide
/-- CF-3: the 17th call. -/
theorem test_call_overflow : see (run { State.reset with sd := 16 } 0x2200) (fun t => (t.fault, t.sd, t.tdiv)) =
    some (some ⟨.stackOverflow, 0x200#16, none, none, none⟩, 16, 0) := by decide
/-- L1-7. -/
theorem test_ret : see (run { State.reset with sd := 1, stack := State.reset.stack.set 0 0x206#16 } 0x00EE)
    (fun t => (t.pc, t.sd, t.stack[0])) = some (0x206#16, 0, 0x206#16) := by decide
/-- CF-4. -/
theorem test_ret_underflow : see (run State.reset 0x00EE) (fun t => (t.fault, t.pc)) =
    some (some ⟨.stackUnderflow, 0x200#16, none, none, none⟩, 0x200#16) := by decide
/-- CF-6. -/
theorem test_seImm : see (run (withRegs [(3, 0x10)]) 0x3310) State.pc = some 0x204#16 := by decide
/-- CF-7. -/
theorem test_seImm_differs : see (run (withRegs [(3, 0x10)]) 0x3311) State.pc = some 0x202#16 := by decide
/-- CF-8. -/
theorem test_sneImm : see (run (withRegs [(3, 0x10)]) 0x4310) State.pc = some 0x202#16 := by decide
/-- CF-9. -/
theorem test_seReg : see (run (withRegs [(1, 7), (2, 7)]) 0x5120) State.pc = some 0x204#16 := by decide
/-- CF-11. -/
theorem test_illegal : see (run State.reset 0x5121) (fun t => (t.fault, t.pc, t.tdiv)) =
    some (some ⟨.illegalOpcode, 0x200#16, some 0x5121#16, none, none⟩, 0x200#16, 0) := by decide
/-- CF-12. -/
theorem test_sneReg : see (run (withRegs [(1, 7), (2, 8)]) 0x9120) State.pc = some 0x204#16 := by decide
/-- CF-13. -/
theorem test_sneReg_same : see (run State.reset 0x9110) State.pc = some 0x202#16 := by decide
/-- CF-14: V0, whatever nnn's high nibble. -/
theorem test_jpV0 : see (run (withRegs [(0, 0x05), (3, 0x40)]) 0xB300) State.pc = some 0x305#16 := by decide
/-- CF-16. -/
theorem test_jpV0_high : see (run (withRegs [(0, 0xFF)]) 0xBFFF) State.pc = some 0x10FE#16 := by decide
/-- CF-17. -/
theorem test_sys : see (run State.reset 0x0123) (fun t => (t.fault, t.pc)) =
    some (some ⟨.unsupportedInstruction, 0x200#16, some 0x0123#16, none, none⟩, 0x200#16) := by decide
/-- CF-18 and P7: the empty image. -/
theorem test_empty_image : see (step State.reset) State.fault =
    some (some ⟨.unsupportedInstruction, 0x200#16, some 0x0000#16, none, none⟩) := by decide
/-- CF-19. -/
theorem test_fetch_at_the_top : see (step { State.reset with pc := 0xFFF#16 }) State.fault =
    some (some ⟨.outOfBoundsAccess, 0xFFF#16, none, some 0x1000, none⟩) := by decide
/-- CF-20. -/
theorem test_fetch_below_the_top : see (run { State.reset with pc := 0xFFE#16 } 0x1200) State.pc =
    some 0x200#16 := by decide

/-! ### Loads and ALU (vectors ALU-1 to ALU-26) -/

/-- ALU-1. -/
theorem test_ldImm : see (run State.reset 0x6A42) (fun t => (t.getV 0xA, t.pc)) = some (0x42#8, 0x202#16) := by decide
/-- ALU-2. -/
theorem test_addImm : see (run (withRegs [(2, 0xFE), (0xF, 0x42)]) 0x7203) (fun t => (t.getV 2, t.getV 0xF)) =
    some (0x01#8, 0x42#8) := by decide
/-- ALU-3. -/
theorem test_addImm_vf : see (run (withRegs [(0xF, 0xFF)]) 0x7F01) (fun t => t.getV 0xF) = some 0x00#8 := by decide
/-- ALU-4. -/
theorem test_ldReg : see (run (withRegs [(1, 0x33)]) 0x8010) (fun t => t.getV 0) = some 0x33#8 := by decide
/-- ALU-5. -/
theorem test_orReg : see (run (withRegs [(0, 0xF0), (1, 0x0F), (0xF, 0x55)]) 0x8011) (fun t => (t.getV 0, t.getV 0xF)) =
    some (0xFF#8, 0x55#8) := by decide
/-- ALU-6. -/
theorem test_andReg : see (run (withRegs [(0, 0xF0), (1, 0x3C)]) 0x8012) (fun t => t.getV 0) = some 0x30#8 := by decide
/-- ALU-7. -/
theorem test_xorReg : see (run (withRegs [(0, 0xF0), (1, 0x3C)]) 0x8013) (fun t => t.getV 0) = some 0xCC#8 := by decide
/-- ALU-10: the flag, not the sum. -/
theorem test_addReg_vf : see (run (withRegs [(0xF, 0xF0), (1, 0x20)]) 0x8F14) (fun t => t.getV 0xF) =
    some 0x01#8 := by decide
/-- ALU-12: Q_ADD_FLAG_SELF. -/
theorem test_addReg_quirk : see (run { withRegs [(0, 0x10), (1, 0xF5)] with
    config := { defaultConfig with qAddFlagSelf := true } } 0x8014) (fun t => (t.getV 0, t.getV 0xF)) =
    some (0x05#8, 0x00#8) := by decide
/-- L1-6. -/
theorem test_sub_borrow : see (run (withRegs [(0, 3), (1, 5)]) 0x8015) (fun t => (t.getV 0, t.getV 0xF)) =
    some (0xFE#8, 0x00#8) := by decide
/-- ALU-15: Q_SUB_FLAG_STRICT at equality. -/
theorem test_sub_quirk : see (run { withRegs [(0, 7), (1, 7)] with
    config := { defaultConfig with qSubFlagStrict := true } } 0x8015) (fun t => (t.getV 0, t.getV 0xF)) =
    some (0x00#8, 0x00#8) := by decide
/-- ALU-17. -/
theorem test_subn : see (run (withRegs [(1, 3), (2, 5)]) 0x8127) (fun t => (t.getV 1, t.getV 0xF)) =
    some (0x02#8, 0x01#8) := by decide
/-- ALU-18. -/
theorem test_subn_borrow : see (run (withRegs [(1, 1), (2, 0)]) 0x8127) (fun t => (t.getV 1, t.getV 0xF)) =
    some (0xFF#8, 0x00#8) := by decide
/-- ALU-19. -/
theorem test_shr : see (run (withRegs [(1, 0x05), (0, 0x77)]) 0x8016) (fun t => (t.getV 1, t.getV 0, t.getV 0xF)) =
    some (0x02#8, 0x02#8, 0x01#8) := by decide
/-- ALU-20. -/
theorem test_shr_vf : see (run (withRegs [(0xF, 0x03)]) 0x80F6) (fun t => (t.getV 0, t.getV 0xF)) =
    some (0x01#8, 0x01#8) := by decide
/-- ALU-21. -/
theorem test_shl : see (run (withRegs [(1, 0x81)]) 0x801E) (fun t => (t.getV 1, t.getV 0, t.getV 0xF)) =
    some (0x02#8, 0x02#8, 0x01#8) := by decide
/-- ALU-23. -/
theorem test_shl_vf : see (run (withRegs [(1, 0x40)]) 0x8F1E) (fun t => (t.getV 1, t.getV 0xF)) =
    some (0x80#8, 0x00#8) := by decide
/-- ALU-24: with the drawn byte given. -/
theorem test_rnd : (maskedDraw 0xA7#8 0x3#4 0x0F#8 State.reset).getV 3 = 0x07#8 := by decide
/-- ALU-25: any draw. -/
theorem test_rnd_zero (r : Byte) : (maskedDraw r 0x3#4 0x00#8 State.reset).v[3] = 0x00#8 := by
  simp [maskedDraw, State.advance, State.setPc, State.setV]

/-! ### Address register and memory (vectors MEM-1 to MEM-13, BCD-1 to BCD-4) -/

/-- MEM-1. -/
theorem test_ldI : see (run State.reset 0xA2F0) State.i = some 0x2F0#16 := by decide
/-- MEM-3: above 0xFFF, no fault. -/
theorem test_addI : see (run ((withRegs [(4, 1)]).setI 0x0FFF) 0xF41E) (fun t => (t.i, t.fault)) =
    some (0x1000#16, none) := by decide
/-- MEM-4. -/
theorem test_addI_wraps : see (run ((withRegs [(4, 1)]).setI 0xFFFF) 0xF41E) State.i = some 0x0000#16 := by decide
/-- MEM-6. -/
theorem test_ldF : see (run (withRegs [(7, 0x1A)]) 0xF729) State.i = some 0x032#16 := by decide
/-- MEM-7. -/
theorem test_ldF_raw : see (run { withRegs [(7, 0x1A)] with
    config := { defaultConfig with fontIndexMode := .raw } } 0xF729) State.i = some 0x082#16 := by decide
/-- BCD-1. -/
theorem test_ldB : see (run ((withRegs [(3, 156)]).setI 0x300) 0xF333) (fun t => (bytesAt t 0x300 3, t.i)) =
    some ([1, 5, 6], 0x300#16) := by decide
/-- BCD-4. -/
theorem test_ldB_faults : see (run ((withRegs [(3, 156)]).setI 0xFFE) 0xF333) (fun t => (t.fault, bytesAt t 0xFFE 2)) =
    some (some ⟨.outOfBoundsAccess, 0x200#16, none, some 0x1000, none⟩, [0, 0]) := by decide
/-- MEM-9: MEM-8 under Q_INDEX_INCREMENT. -/
theorem test_ldMemVx : see (run { (withRegs [(0, 1), (1, 2), (2, 3), (3, 4)]).setI 0x400 with
    config := { defaultConfig with qIndexIncrement := true } } 0xF255) (fun t => (bytesAt t 0x400 4, t.i)) =
    some ([1, 2, 3, 0], 0x403#16) := by decide
/-- MEM-10. -/
theorem test_ldMemVx_faults : see (run ((withRegs [(0, 9)]).setI 0xFF1) 0xFF55) (fun t => (t.fault, t.byteAt 0xFF1)) =
    some (some ⟨.outOfBoundsAccess, 0x200#16, none, some 0x1000, none⟩, 0) := by decide
/-- MEM-12. -/
theorem test_ldVxMem : see (run (withRegs [(2, 0x77)]) 0xF165) (fun t => (t.getV 0, t.getV 1, t.getV 2, t.i)) =
    some (0xF0#8, 0x90#8, 0x77#8, 0x0000#16) := by decide
/-- MEM-13. -/
theorem test_ldVxMem_all : see (run State.reset 0xFF65) (fun t => (t.getV 0xE, t.getV 0xF)) =
    some (0xF0#8, 0xF0#8) := by decide

/-! ### Display (vectors DRW-1 to DRW-11) -/

/-- DRW-2. -/
theorem test_drw_clips : see (run (withData (withRegs [(0, 60)]) 0x300 [0xFF]) 0xD011) (fun t => (lit t 0, t.getV 0xF)) =
    some ([60, 61, 62, 63], 0x01#8) := by decide
/-- DRW-10. -/
theorem test_drw_vf_origin : see (run (withData (withRegs [(0xF, 5)]) 0x300 [0x80]) 0xDF11)
    (fun t => (lit t 0, t.getV 0xF)) = some ([5], 0x00#8) := by decide
/-- DRW-11. -/
theorem test_cls : see (run { withRegs [(0xF, 7)] with fb := State.reset.fb.setPixel 3 4 true } 0x00E0)
    (fun t => (lit t 4, t.dirty, t.getV 0xF)) = some ([], true, 0x07#8) := by decide

/-! ### Keypad, timers and the host's operations (vectors KEY-1 to KEY-9, TIM-1 to TIM-6) -/

/-- KEY-2. -/
theorem test_skp : see (run ((withRegs [(5, 7)]).handleKeyEvent 7 true) 0xE59E) State.pc = some 0x204#16 := by decide
/-- KEY-4. -/
theorem test_skp_faults : see (run (withRegs [(5, 16)]) 0xE59E) (fun t => (t.fault, t.pc)) =
    some (some ⟨.keyIndexOutOfRange, 0x200#16, none, none, some 16⟩, 0x200#16) := by decide
/-- KEY-3. -/
theorem test_sknp : see (run (withRegs [(5, 7)]) 0xE5A1) State.pc = some 0x204#16 := by decide
/-- KEY-5. -/
theorem test_ldVxK : see (run State.reset 0xF50A) (fun t => (t.halt, t.haltReg, t.pc, t.tdiv)) =
    some (true, 0x5#4, 0x202#16, 1) := by decide
/-- KEY-8. -/
theorem test_key_ends_wait : let t := (State.reset.latchKeyWait 0xF).handleKeyEvent 0xC true
    (t.getV 0xF, t.halt) = (0x0C#8, false) := by decide
/-- KEY-6: a repeated press ends no wait. -/
theorem test_key_repeat : (((State.reset.handleKeyEvent 3 true).latchKeyWait 5).handleKeyEvent 3 true).halt =
    true := by decide
/-- TIM-1. -/
theorem test_ldVxDT : see (run (State.reset.setDT 0x3C) 0xF307) (fun t => t.getV 3) = some 0x3C#8 := by decide
/-- TIM-3: the same step's tick. -/
theorem test_ldDTVx : see (run { withRegs [(0, 0x10)] with config := { defaultConfig with timerDivider := 1 } } 0xF015)
    State.dt = some 0x0F#8 := by decide
/-- TIM-4. -/
theorem test_ldSTVx : see (run (withRegs [(0, 0x05)]) 0xF018) (fun t => (t.st, t.buzzer)) = some (0x05#8, true) := by decide
/-- TIM-6: a halted step. -/
theorem test_halted_step : see (step { State.reset.setDT 5 with halt := true, tdiv := 8 }) (fun t => (t.dt, t.tdiv)) =
    some (0x05#8, 8) := by decide
/-- L1-2: glyph B starts at 0x37. -/
theorem test_font : bytesAt State.reset 0x37 5 = [0xE0, 0x90, 0xE0, 0x90, 0xE0] := by decide
/-- L1-1: the image is fetched from 0x200. -/
theorem test_boot : (bootState defaultConfig 0 [0x6A#8, 0x42#8]).byteAt 0x201 = 0x42#8 := by
  rw [bootState_byteAt _ _ (by decide) _ (by decide), getD_bootBytes _ (by decide)]
  decide
/-- R17: another font is copied whole, and MEM_FILL follows it. -/
theorem test_boot_font : let c := { defaultConfig with font := Vector.replicate 80 0xAA#8, memFill := 0x55#8 }
    (bootState c 0 []).byteAt 0x04F = 0xAA#8 ∧ (bootState c 0 []).byteAt 0x050 = 0x55#8 := by
  intro c
  constructor <;> rw [bootState_byteAt _ _ (by decide) _ (by decide), getD_bootBytes _ (by decide)] <;> decide
/-- R133: a second render answers nothing. -/
theorem test_render : (State.reset.setDisplay blankScreen).render.2.render.1 = none := by decide

/-! ### States that meet the hypotheses of the statements -/

/-- A state at the bounds of the invariant: PC at 0x10FE, every slot at 0x1000, SD = 16, TDIV one below its end. -/
def edge : State :=
  { State.reset with pc := 0x10FE#16, sd := 16, stack := Vector.replicate 16 0x1000#16, tdiv := 8,
                     mem := [(0xFFF, 0x01#8)] }

theorem witness_DecodeOfEncode : (Instr.sys 0x0EF#12).WellFormed ∧ (Instr.drw 0xF#4 0xF#4 0xF#4).WellFormed := by decide
theorem witness_EncodeOfDecode : decode 0x0000#16 = .ok (.sys 0x000#12) ∧ decode 0xFF65#16 = .ok (.ldVxMem 0xF#4) := by
  decide
theorem witness_StepRunsDecodedInstruction :
    let s := ({ State.reset with pc := 0xFFE#16 }).withFetchWord 16 0x1200
    s.fault = none ∧ s.halt = false ∧ s.pc.toNat ≤ 0xFFE ∧
      decode (wordOfBytes (s.byteAt s.pc.toNat) (s.byteAt (s.pc.toNat + 1))) = .ok (.jp 0x200#12) := by decide
theorem witness_HaltedStepChangesNothing :
    (State.reset.latchKeyWait 0x5).fault = none ∧ (State.reset.latchKeyWait 0x5).halt = true := by decide
theorem witness_OnlyAFaultedMachineTakesNoStep :
    (State.reset.raise .stackOverflow).fault = some ⟨.stackOverflow, 0x200#16, none, none, none⟩ ∧
      State.reset.fault = none := by decide
theorem witness_IllegalWordRaises :
    let s := State.reset.withFetchWord 16 0xFFFF
    s.fault = none ∧ s.halt = false ∧ s.fetchWord = .ok 0xFFFF#16 ∧ decode 0xFFFF#16 = .error (.illegal 0xFFFF#16) := by
  refine ⟨by decide, by decide, by rfl, by decide⟩
theorem witness_FetchIsBigEndianAndBounded :
    ({ State.reset with pc := 0xFFE#16 }).pc.toNat ≤ 0xFFE ∧
      0xFFF ≤ ({ State.reset with pc := 0xFFF#16 }).pc.toNat ∧ 0xFFF ≤ ({ State.reset with pc := 0xFFFF#16 }).pc.toNat ∧
      State.reset.fault = none ∧ State.reset.halt = false := by decide
theorem witness_FaultingStepChangesOnlyFault :
    ∃ t, step State.reset = .next t ∧
      t.fault = some ⟨.unsupportedInstruction, 0x200#16, some 0x0000#16, none, none⟩ :=
  next_of_see (f := State.fault) (by decide)
theorem witness_StepKeepsInv : edge.Inv ∧ ∃ t, step edge = .next t ∧ t.fault.isSome = true :=
  ⟨⟨by decide, by decide, by decide, by decide, fun _ h => (by cases h), fun h => absurd rfl h⟩,
    next_of_see (f := fun t => t.fault.isSome) (by decide)⟩
theorem witness_HostRunKeepsInv :
    edge.Inv ∧ ∃ t, hostRun [.keyEvent 0xF true, .render, .step] edge = .next t ∧ t.keyDown 0xF = true :=
  ⟨⟨by decide, by decide, by decide, by decide, fun _ h => (by cases h), fun h => absurd rfl h⟩,
    next_of_see (f := fun t => t.keyDown 0xF) (by decide)⟩
theorem witness_OnlyListedInstructionsRaise :
    see (exec .ret State.reset) (fun t => t.fault.isSome) = some true ∧
      see (exec .cls State.reset) (fun t => t.fault.isSome) = some false := by decide
theorem witness_BootLoadsTheImage :
    ([] : List Byte).length ≤ 3584 ∧ (List.replicate 3584 0xFF#8).length ≤ 3584 := by
  constructor
  · decide
  · rw [List.length_replicate]
theorem witness_BootRejectsALargeImage :
    3584 < (List.replicate 3585 0xFF#8).length ∧ ∀ image, HostOp.step ≠ .boot image := by
  constructor
  · rw [List.length_replicate]; decide
  · exact fun _ h => HostOp.noConfusion h
theorem witness_TimersCountDownEveryNthTick : 1 ≤ State.reset.config.timerDivider ∧ State.reset.tdiv = 0 := by decide
theorem witness_TickChangesOnlyTimers :
    ({ State.reset with tdiv := 8 }).tdiv + 1 = State.reset.config.timerDivider ∧
      State.reset.tdiv + 1 ≠ State.reset.config.timerDivider := by decide
theorem witness_KeySkips : ((withRegs [(5, 15)]).getV 5).toNat ≤ 15 ∧ 15 < ((withRegs [(5, 16)]).getV 5).toNat := by decide
theorem witness_KeyEventEffect :
    let s := State.reset.latchKeyWait 0x5
    s.halt = true ∧ s.keyDown 0xF = false ∧ ¬ State.reset.halt = true := by decide
theorem witness_KeyWaitEndsOnKeyDown :
    let s := State.reset.withFetchWord 16 0xF50A
    s.fault = none ∧ s.halt = false ∧ s.fetchWord = .ok (encode (.ldVxK 0x5#4)) ∧ s.keyDown 0x3 = false ∧
      (s.setKey 0x3 true).keyDown 0x3 = true := by
  refine ⟨by decide, by decide, by rfl, by decide, by decide⟩
theorem witness_IdleStepOnlyTicks :
    let s := State.reset.withFetchWord 16 0x1200
    s.fault = none ∧ s.halt = false ∧ s.idle = true := by decide
theorem witness_SysRaisesUnsupported :
    opField 0x0000#16 = 0x0#4 ∧ (0x0000#16 : Word) ≠ 0x00E0#16 ∧ (0x0000#16 : Word) ≠ 0x00EE#16 ∧
      opField 0x0FFF#16 = 0x0#4 := by decide
theorem witness_CallPushesReturnAddress : ({ State.reset with sd := 15 }).sd.val < 16 := by decide
theorem witness_RetPopsReturnAddress : 0 < ({ State.reset with sd := 1 }).sd.val ∧ 0 < edge.sd.val := by decide
theorem witness_StackFaults : edge.sd.val = 16 ∧ State.reset.sd.val = 0 := by decide
theorem witness_RetAfterCallResumes : State.reset.sd.val < 16 ∧ ({ State.reset with sd := 15 }).sd.val < 16 := by decide
theorem witness_AddWithCarry :
    State.reset.config.qAddFlagSelf = false ∧ ({ defaultConfig with qAddFlagSelf := true }).qAddFlagSelf = true ∧
      (0xE#4 : Reg) ≠ Reg.flag := by decide
theorem witness_SubtractWithNoBorrow :
    State.reset.config.qSubFlagStrict = false ∧ ({ defaultConfig with qSubFlagStrict := true }).qSubFlagStrict = true ∧
      (0xE#4 : Reg) ≠ Reg.flag := by decide
theorem witness_ShiftsWriteBothRegisters : (0xE#4 : Reg) ≠ Reg.flag ∧ (0x0#4 : Reg) ≠ Reg.flag := by decide
theorem witness_RandomIsMasked : (0x0F#8).getLsbD 7 = false ∧ (0x00#8 : Byte) = 0 := by decide
theorem witness_IndexArithmetic :
    State.reset.config.fontIndexMode = .lowNibble ∧ ({ defaultConfig with fontIndexMode := .raw }).fontIndexMode = .raw := by
  decide
theorem witness_BcdStore : (State.reset.setI 0xFFD).i.toNat + 2 ≤ 0xFFF := by decide
theorem witness_BlockStore : (State.reset.setI 0xFF0).i.toNat + (0xF#4).toNat ≤ 0xFFF := by decide
theorem witness_BlockLoad : (State.reset.setI 0xFFF).i.toNat + (0x0#4).toNat ≤ 0xFFF := by decide
theorem witness_StoredCodeIsFetched :
    let s := (State.reset.setPc 0xFFC).setI 0xFFE
    1 ≤ (0x1#4).toNat ∧ s.i.toNat = s.pc.toNat + 2 ∧ s.i.toNat + (0x1#4).toNat ≤ 0xFFF := by decide
/-- One of each of its four instructions, at the lowest address that fails. -/
theorem witness_TransferOutOfBoundsRaises :
    (1 ≤ (0x1#4).toNat ∧ 0xFFF < (State.reset.setI 0x1000).i.toNat + (0x1#4).toNat - 1) ∧
      0xFFF < (State.reset.setI 0xFFE).i.toNat + 3 - 1 ∧
      0xFFF < (State.reset.setI 0xFF1).i.toNat + ((0xF#4).toNat + 1) - 1 ∧
      0xFFF < (State.reset.setI 0x1000).i.toNat + ((0x0#4).toNat + 1) - 1 := by decide
theorem witness_DrawCompletes :
    (0x0#4 : Nibble) = 0 ∧ (State.reset.setI 0xFF1).i.toNat + (0xF#4).toNat ≤ 0x1000 := by decide
theorem witness_SpriteBitsToggleTheirPixels :
    let s := withData (withRegs [(0, 56), (1, 17)]) 0xFF1 [0xFF]
    (s.getV 0).toNat + 8 ≤ 64 ∧ (s.getV 1).toNat + (0xF#4).toNat ≤ 32 ∧ s.i.toNat + (0xF#4).toNat ≤ 0x1000 ∧
      (s.byteAt (s.base + 0)).getLsbD 7 = true := by decide
theorem witness_ClippedDrawTogglesAndCollides :
    State.reset.config.qDrawWrap = false ∧ (State.reset.setI 0xFF1).i.toNat + (0xF#4).toNat ≤ 0x1000 := by decide
theorem witness_WrappedDrawTogglesAndCollides :
    let s := { State.reset with config := { defaultConfig with qDrawWrap := true } }
    s.config.qDrawWrap = true ∧ s.i.toNat + (0xF#4).toNat ≤ 0x1000 := by decide
/-- The origin in VF, and a sprite with a 1-bit. -/
theorem witness_DrawingTwiceRestores :
    ((0xF#4 : Reg) = Reg.flag ∨ (0x0#4 : Reg) = Reg.flag → (0x00#8 : Byte) = State.reset.getV Reg.flag) ∧
      State.reset.i.toNat + (0x5#4).toNat ≤ 0x1000 ∧ bitSet (State.reset.spriteRows 0x5#4) 0 0 = true := by decide
theorem witness_OnlyListedRegistersAndBytesChange :
    (∃ t, exec (.ldB 0x3#4) State.reset = .next t ∧ t.fault = none) ∧ 0x3#4 ∉ writtenRegs (.ldB 0x3#4) ∧
      3 ∉ storedBytes (.ldB 0x3#4) State.reset :=
  ⟨next_of_see (f := State.fault) (by decide), by decide, by decide⟩
theorem witness_ControlStateWriters : ∃ t, exec (.call 0x300#12) State.reset = .next t ∧ t.sd ≠ State.reset.sd := by
  obtain ⟨t, ht, h⟩ := next_of_see (r := exec (.call 0x300#12) State.reset) (f := State.sd) (b := 1) (by decide)
  exact ⟨t, ht, by rw [h]; decide⟩
theorem witness_UnreadRegistersInfluenceNothing :
    0xF#4 ∉ readRegs (.ldMemVx 0xE#4) ∧ 0x0#4 ∉ readRegs (.shr 0x0#4 0x1#4) := by decide
theorem witness_SoundAndDirtyAreNeverRead : ∃ t, step State.reset = .next t ∧ t.st = 0x00#8 :=
  next_of_see (f := State.st) (by decide)
theorem witness_StaleSlotsAreNeverRead :
    State.reset.sd.val ≤ (0 : Fin 16).val ∧ ({ State.reset with sd := 15 }).sd.val ≤ (15 : Fin 16).val := by decide

end Sys2Proof.Tests
end

/-! ## Control flow (40_control_flow.md): SYS and the register skips -/

namespace Sys2Proof

/-! ### The decoder on the words of SYS, SE and SNE (30_encoding.md R62, R64, R65) -/

/-- A word with major opcode 0 is decoded by the 0-group, and none of them is illegal. -/
theorem decode_of_opField_zero {w : Word} (h : opField w = 0x0#4) : decode w = .ok (decode0 w) := by
  unfold decode; rw [h]; rfl

/-- In the 0-group, what is neither CLS nor RET is SYS (R65). -/
theorem decode0_of_ne {w : Word} (hcls : w ≠ 0x00E0#16) (hret : w ≠ 0x00EE#16) :
    decode0 w = .sys (nnnField w) := by
  unfold decode0; rw [if_neg hcls, if_neg hret]

/-- The word of the SYS that a 0-group word is read as is that word. -/
theorem encode_sys_nnnField {w : Word} (h : opField w = 0x0#4) : encode (.sys (nnnField w)) = w :=
  calc encode (.sys (nnnField w)) = wordFA (opField w) (nnnField w) := by rw [h]; rfl
    _ = w := wordFA_fields w

theorem decode_seImm (x : Reg) (kk : Byte) : decode (wordFXK 0x3#4 x kk) = .ok (.seImm x kk) := by
  simp [decode]

theorem decode_sneImm (x : Reg) (kk : Byte) : decode (wordFXK 0x4#4 x kk) = .ok (.sneImm x kk) := by
  simp [decode]

/-- A 5xyn word is SE when its low nibble is 0, and illegal otherwise (R64). -/
theorem decode_wordFXY_five (x y : Reg) (n : Nibble) :
    decode (wordFXY 0x5#4 x y n) =
      if n = 0x0#4 then .ok (.seReg x y) else .error (.illegal (wordFXY 0x5#4 x y n)) := by
  simp [decode]

/-- A 9xyn word is SNE when its low nibble is 0, and illegal otherwise (R64). -/
theorem decode_wordFXY_nine (x y : Reg) (n : Nibble) :
    decode (wordFXY 0x9#4 x y n) =
      if n = 0x0#4 then .ok (.sneReg x y) else .error (.illegal (wordFXY 0x9#4 x y n)) := by
  simp [decode]

namespace Machine

/-! ### What SYS, SE and SNE execute -/

theorem exec_sys (nnn : Addr12) (s : State) :
    exec (.sys nnn) s = .next (s.raise .unsupportedInstruction (word := some (encode (.sys nnn)))) := rfl

theorem exec_seImm (x : Reg) (kk : Byte) (s : State) :
    exec (.seImm x kk) s = .next (s.skipIf (s.getV x == kk)) := rfl

theorem exec_sneImm (x : Reg) (kk : Byte) (s : State) :
    exec (.sneImm x kk) s = .next (s.skipIf (s.getV x != kk)) := rfl

theorem exec_seReg (x y : Reg) (s : State) :
    exec (.seReg x y) s = .next (s.skipIf (s.getV x == s.getV y)) := rfl

theorem exec_sneReg (x y : Reg) (s : State) :
    exec (.sneReg x y) s = .next (s.skipIf (s.getV x != s.getV y)) := rfl

/-- A write of PC stays inside every footprint, the empty one too. -/
theorem Keeps.setPc (f : Footprint) (s : State) (w : Word) : Keeps f s (s.setPc w) := by
  constructor <;> simp

/-- What every skip does: PC + 4 when its condition holds and PC + 2 otherwise, and nothing else (40_control_flow.md
R69). -/
theorem skip_pc_and_frame {i : Instr} {s : State} {c : Bool} {P : Prop} [Decidable P]
    (hexec : exec i s = .next (s.skipIf c)) (hc : c = true ↔ P) :
    ∃ t, exec i s = .next t ∧ t.pc = s.pc + (if P then 4#16 else 2#16) ∧ Keeps {} s t := by
  refine ⟨s.skipIf c, hexec, ?_, Keeps.setPc {} s _⟩
  rw [State.skipIf_pc]
  simp only [hc]

/-! ### The statements -/

/-- Settles O27: a 0-group word other than CLS and RET is read as the SYS whose own word it is, so that SYS records the
fetched word. -/
theorem sysRaisesUnsupported : Obligations.SysRaisesUnsupported := by
  intro w hop hcls hret
  refine ⟨?_, fun s => ?_⟩
  · rw [decode_of_opField_zero hop, decode0_of_ne hcls hret]
  · rw [exec_sys, encode_sys_nnnField hop, State.raise]

/-- Settles O34, by the common effect of the skips. -/
theorem skipOnImmediate : Obligations.SkipOnImmediate := by
  intro x kk
  refine ⟨decode_seImm x kk, decode_sneImm x kk, fun s => ⟨?_, ?_⟩⟩
  · exact skip_pc_and_frame (exec_seImm x kk s) beq_iff_eq
  · exact skip_pc_and_frame (exec_sneImm x kk s) bne_iff_ne

/-- Settles O35, by the decoding of every 5xyn and 9xyn word and the common effect of the skips. -/
theorem skipOnRegisters : Obligations.SkipOnRegisters := by
  intro x y
  refine ⟨?_, ?_, fun n hn => ⟨?_, ?_⟩, fun s => ⟨?_, ?_⟩⟩
  · rw [decode_wordFXY_five, if_pos rfl]
  · rw [decode_wordFXY_nine, if_pos rfl]
  · rw [decode_wordFXY_five, if_neg hn]
  · rw [decode_wordFXY_nine, if_neg hn]
  · exact skip_pc_and_frame (exec_seReg x y s) beq_iff_eq
  · exact skip_pc_and_frame (exec_sneReg x y s) bne_iff_ne

end Machine

end Sys2Proof

/-! ## Register loads (41_alu.md R81, R83) -/

namespace Sys2Proof

theorem decode_ldImm (x : Reg) (kk : Byte) : decode (wordFXK 0x6#4 x kk) = .ok (.ldImm x kk) := by
  simp [decode]

theorem decode_ldReg (x y : Reg) : decode (wordFXY 0x8#4 x y 0x0#4) = .ok (.ldReg x y) := by
  simp [decode, decode8]

namespace Machine

theorem exec_ldImm (x : Reg) (kk : Byte) (s : State) :
    exec (.ldImm x kk) s = .next (s.setV x kk).advance := rfl

theorem exec_ldReg (x y : Reg) (s : State) :
    exec (.ldReg x y) s = .next (s.setV x (s.getV y)).advance := rfl

/-- A write of one register and the advance of PC stay inside every footprint that lists the register. -/
theorem Keeps.setV_advance {f : Footprint} {x : Reg} (hx : x ∈ f.regs) (s : State) (b : Byte) :
    Keeps f s (s.setV x b).advance := by
  constructor
  case regs =>
    intro r hr
    have hne : r ≠ x := fun h => hr (h ▸ hx)
    rw [State.advance_getV, State.getV_setV_ne s b hne]
  all_goals simp

/-- What an instruction does that writes one register and no flag: the register holds the value (VF like any other), PC
is advanced, and nothing else changes. -/
theorem register_write_effect {i : Instr} {s : State} {x : Reg} {b : Byte}
    (hexec : exec i s = .next (s.setV x b).advance) :
    ∃ t, exec i s = .next t ∧ t.getV x = b ∧ t.pc = s.pc + 2#16 ∧ Keeps { regs := [x] } s t := by
  refine ⟨(s.setV x b).advance, hexec, ?_, ?_, Keeps.setV_advance (List.mem_singleton_self x) s b⟩
  · rw [State.advance_getV, State.getV_setV_self]
  · rw [State.advance_pc, State.setV_pc]

/-- Settles O36, by the decoding of the words 6xkk and 8xy0 and the common effect of a register write. -/
theorem registerLoads : Obligations.RegisterLoads := by
  refine ⟨fun x kk => ⟨decode_ldImm x kk, fun s => ?_⟩, fun x y => ⟨decode_ldReg x y, fun s => ?_⟩⟩
  · exact register_write_effect (exec_ldImm x kk s)
  · exact register_write_effect (exec_ldReg x y s)

end Machine

end Sys2Proof

/-! ## The load of the address register (42_index_memory.md R94) -/

namespace Sys2Proof

theorem decode_ldI (nnn : Addr12) : decode (wordFA 0xA#4 nnn) = .ok (.ldI nnn) := by
  simp [decode]

namespace Machine

/-- The address of an instruction is extended with zeros (R94). -/
theorem toNat_addrWord (nnn : Addr12) : (addrWord nnn).toNat = nnn.toNat :=
  BitVec.toNat_setWidth_of_le (by decide)

theorem exec_ldI (nnn : Addr12) (s : State) :
    exec (.ldI nnn) s = .next (s.setI (addrWord nnn)).advance := rfl

/-- A write of I and the advance of PC stay inside every footprint that lists I. -/
theorem Keeps.setI_advance {f : Footprint} (hf : f.index = true) (s : State) (w : Word) :
    Keeps f s (s.setI w).advance := by
  constructor
  case index =>
    intro hindex
    rw [hf] at hindex
    contradiction
  all_goals simp

/-- What an instruction does that writes I: I holds the word, PC is advanced, and nothing else changes. -/
theorem index_write_effect {i : Instr} {s : State} {w : Word}
    (hexec : exec i s = .next (s.setI w).advance) :
    ∃ t, exec i s = .next t ∧ t.i = w ∧ t.pc = s.pc + 2#16 ∧ Keeps { index := true } s t := by
  refine ⟨(s.setI w).advance, hexec, ?_, ?_, Keeps.setI_advance rfl s w⟩
  · rw [State.advance_i, State.setI_i]
  · rw [State.advance_pc, State.setI_pc]

/-- Settles O43, by the decoding of the word Annn and the effect of a write of I. -/
theorem indexLoad : Obligations.IndexLoad := by
  refine fun nnn => ⟨decode_ldI nnn, fun s => ?_⟩
  obtain ⟨t, hexec, hi, hpc, hkeeps⟩ := index_write_effect (exec_ldI nnn s)
  refine ⟨t, hexec, ?_, hpc, hkeeps⟩
  rw [hi, toNat_addrWord]

end Machine

end Sys2Proof

/-! ## Display (43_display.md): CLS and DRW -/

namespace Sys2Proof

theorem decode_cls : decode 0x00E0#16 = .ok .cls := by decide

namespace Machine

/-! ### CLS (R100) -/

theorem exec_cls (s : State) : exec .cls s = .next (s.setDisplay blankScreen).advance := rfl

/-- Every pixel of the blank screen is off. -/
theorem pixel_blankScreen (X Y : Nat) : blankScreen.pixel X Y = false := by
  unfold Framebuffer.pixel blankScreen
  split
  · simp
  · rfl

/-- A new framebuffer and the advance of PC stay inside every footprint that lists the display. -/
theorem Keeps.setDisplay_advance {f : Footprint} (hf : f.display = true) (s : State) (fb : Framebuffer) :
    Keeps f s (s.setDisplay fb).advance := by
  constructor
  case display =>
    intro hdisplay
    rw [hf] at hdisplay
    contradiction
  all_goals simp

/-- Settles O50, by the decoding of the word 00E0 and the effect of a new framebuffer that is blank. -/
theorem clearScreen : Obligations.ClearScreen := by
  refine ⟨decode_cls, fun s => ⟨(s.setDisplay blankScreen).advance, exec_cls s, fun X Y _ _ => ?_, ?_, ?_,
    Keeps.setDisplay_advance rfl s blankScreen⟩⟩
  · rw [State.advance_fb, State.setDisplay_fb, pixel_blankScreen]
  · rw [State.advance_dirty, State.setDisplay_dirty]
  · rw [State.advance_pc, State.setDisplay_pc]

/-! ### DRW as the positions of its 1-bits (R101) -/

/-- The positions at which DRW Vx, Vy, n draws its 1-bits. -/
def State.spriteMarks (s : State) (x y : Reg) (n : Nibble) : List (Nat × Nat) :=
  marks s.config.qDrawWrap (s.getV x).toNat (s.getV y).toNat (s.spriteRows n)

theorem exec_drw (x y : Reg) (n : Nibble) (s : State) :
    exec (.drw x y n) s = .next (s.checked s.base n.toNat
      ((s.setDisplay (s.drawSprite x y n).fb).setFlag (s.drawSprite x y n).hit).advance) := rfl

/-- A DRW that reads no row outside memory raises nothing. -/
theorem exec_drw_of_inside {n : Nibble} {s : State} (hmem : n = 0 ∨ s.i.toNat + n.toNat ≤ 0x1000) (x y : Reg) :
    exec (.drw x y n) s =
      .next ((s.setDisplay (s.drawSprite x y n).fb).setFlag (s.drawSprite x y n).hit).advance := by
  have hcheck : checkRange s.base n.toNat = none := by
    rw [checkRange_none]
    rcases hmem with rfl | hmem
    · exact .inr rfl
    · exact .inl hmem
  rw [exec_drw, State.checked, hcheck]

theorem length_spriteRows (s : State) (n : Nibble) : (s.spriteRows n).length = n.toNat :=
  Memory.length_readBytes s.mem s.base n.toNat

/-- Row r of a sprite is the byte at I + r (R102). -/
theorem getD_spriteRows (s : State) (n : Nibble) {r : Nat} (hr : r < n.toNat) :
    (s.spriteRows n).getD r 0 = s.byteAt (s.base + r) :=
  Memory.getD_readBytes s.mem s.base n.toNat r hr

/-- The 1-bits of a sprite are those of its bytes, the most significant in column 0 (R102). -/
theorem bitSet_spriteRows (s : State) (n : Nibble) (r c : Nat) :
    bitSet (s.spriteRows n) r c = true ↔
      r < n.toNat ∧ c < 8 ∧ (s.byteAt (s.base + r)).getLsbD (7 - c) = true := by
  unfold bitSet
  rw [length_spriteRows]
  split
  · next h => simp [h, ← getD_spriteRows s n h.1]
  · next h => simp only [Bool.false_eq_true, false_iff]; tauto

/-- A sprite has at most 15 rows, so that even wrapped no two of its 1-bits are drawn at one position. -/
theorem spriteMarks_nodup (s : State) (x y : Reg) (n : Nibble) : (s.spriteMarks x y n).Nodup := by
  refine marks_nodup _ _ _ _ ?_
  rw [length_spriteRows]
  have := n.isLt
  omega

/-- Drawing a sprite toggles the positions of its 1-bits. -/
theorem drawSprite_eq (s : State) (x y : Reg) (n : Nibble) :
    s.drawSprite x y n = Blit.toggleAll { fb := s.fb, hit := false } (s.spriteMarks x y n) :=
  Blit.drawRows_eq _ _ _ _ _

/-- Exactly the grid's pixels under a 1-bit are inverted (R103). -/
theorem drawSprite_pixel (s : State) (x y : Reg) (n : Nibble) {X Y : Nat} (hX : X < 64) (hY : Y < 32) :
    (s.drawSprite x y n).fb.pixel X Y = (s.fb.pixel X Y ^^ decide ((X, Y) ∈ s.spriteMarks x y n)) := by
  rw [drawSprite_eq, Blit.toggleAll_pixel _ _ (spriteMarks_nodup s x y n) X Y hX hY]

/-- A draw collides exactly if a 1-bit falls off the grid or on a set pixel (R103, R104). -/
theorem drawSprite_hit (s : State) (x y : Reg) (n : Nibble) :
    (s.drawSprite x y n).hit = true ↔
      ∃ p ∈ s.spriteMarks x y n, 64 ≤ p.1 ∨ 32 ≤ p.2 ∨ s.fb.pixel p.1 p.2 = true := by
  rw [drawSprite_eq, Blit.toggleAll_hit _ _ (spriteMarks_nodup s x y n)]
  simp only [Bool.false_eq_true, false_or]

/-- After a flag write VF is 1 exactly if the flag was set. -/
theorem getV_flag_setFlag_eq_one (s : State) (c : Bool) : (s.setFlag c).getV Reg.flag = 1 ↔ c = true := by
  rw [State.getV_setFlag, if_pos rfl]
  cases c <;> decide

/-- What a DRW inside memory does to the pixels and to VF, in the positions of its 1-bits. -/
theorem drw_effect {n : Nibble} {s : State} (hmem : n = 0 ∨ s.i.toNat + n.toNat ≤ 0x1000) (x y : Reg) :
    ∃ t, exec (.drw x y n) s = .next t ∧
      (∀ X Y, X < 64 → Y < 32 →
        t.fb.pixel X Y = (s.fb.pixel X Y ^^ decide ((X, Y) ∈ s.spriteMarks x y n))) ∧
      (t.getV Reg.flag = 1 ↔
        ∃ p ∈ s.spriteMarks x y n, 64 ≤ p.1 ∨ 32 ≤ p.2 ∨ s.fb.pixel p.1 p.2 = true) := by
  refine ⟨_, exec_drw_of_inside hmem x y, fun X Y hX hY => ?_, ?_⟩
  · rw [State.advance_fb, State.setFlag_fb, State.setDisplay_fb, drawSprite_pixel s x y n hX hY]
  · rw [State.advance_getV, getV_flag_setFlag_eq_one, drawSprite_hit]

/-! ### A sprite that lies on the grid (R102, R103) -/

/-- On the grid clipping and wrapping agree: the position is not reduced. -/
theorem drawPosition_of_onGrid (wrap : Bool) {px py : Nat} (hx : px < 64) (hy : py < 32) :
    drawPosition wrap px py = (px, py) := by
  cases wrap with
  | false => exact drawPosition_clipped px py
  | true => rw [drawPosition_wrapped, Nat.mod_eq_of_lt hx, Nat.mod_eq_of_lt hy]

/-- A sprite on the grid draws bit 7 - c of byte r at column ox + c of row oy + r. -/
theorem mem_spriteMarks_of_onGrid {s : State} {x y : Reg} {n : Nibble} (hx : (s.getV x).toNat + 8 ≤ 64)
    (hy : (s.getV y).toNat + n.toNat ≤ 32) (p : Nat × Nat) :
    p ∈ s.spriteMarks x y n ↔
      ∃ r c, (r < n.toNat ∧ c < 8 ∧ (s.byteAt (s.base + r)).getLsbD (7 - c) = true) ∧
        ((s.getV x).toNat + c, (s.getV y).toNat + r) = p := by
  rw [State.spriteMarks, mem_marks]
  refine exists₂_congr fun r c => ?_
  rw [bitSet_spriteRows]
  refine and_congr_right fun ⟨hr, hc, _⟩ => ?_
  rw [drawPosition_of_onGrid _ (by omega) (by omega)]

/-- Inside a sprite's rectangle on the grid, a position is drawn on exactly if its own bit is 1. -/
theorem mem_spriteMarks_at {s : State} {x y : Reg} {n : Nibble} (hx : (s.getV x).toNat + 8 ≤ 64)
    (hy : (s.getV y).toNat + n.toNat ≤ 32) {r c : Nat} (hr : r < n.toNat) (hc : c < 8) :
    ((s.getV x).toNat + c, (s.getV y).toNat + r) ∈ s.spriteMarks x y n ↔
      (s.byteAt (s.base + r)).getLsbD (7 - c) = true := by
  rw [mem_spriteMarks_of_onGrid hx hy]
  constructor
  · rintro ⟨r', c', ⟨_, _, hbit⟩, heq⟩
    obtain ⟨hcol, hrow⟩ := Prod.mk.inj heq
    obtain rfl : c' = c := by omega
    obtain rfl : r' = r := by omega
    exact hbit
  · exact fun hbit => ⟨r, c, ⟨hr, hc, hbit⟩, rfl⟩

/-- Settles O52: a sprite on the grid draws each 1-bit at its own unreduced position, and DRW toggles the positions it
draws at. -/
theorem spriteBitsToggleTheirPixels : Obligations.SpriteBitsToggleTheirPixels := by
  intro x y n s hx hy hmem
  obtain ⟨t, hexec, hpixel, hflag⟩ := drw_effect (.inr hmem) x y
  refine ⟨t, hexec, fun r c hr hc => ?_, fun X Y hX hY hout => ?_, hflag.trans ?_⟩
  · rw [hpixel _ _ (by omega) (by omega)]
    simp only [mem_spriteMarks_at hx hy hr hc, Bool.decide_eq_true]
  · have hnot : (X, Y) ∉ s.spriteMarks x y n := by
      rw [mem_spriteMarks_of_onGrid hx hy]
      rintro ⟨r, c, ⟨hr, hc, _⟩, heq⟩
      obtain ⟨rfl, rfl⟩ := Prod.mk.inj heq
      exact hout (by omega)
    rw [hpixel X Y hX hY, decide_eq_false hnot, Bool.xor_false]
  · constructor
    · rintro ⟨p, hp, hhit⟩
      obtain ⟨r, c, ⟨hr, hc, hbit⟩, rfl⟩ := (mem_spriteMarks_of_onGrid hx hy p).mp hp
      exact ⟨r, c, hr, hc, hbit, (hhit.resolve_left (by omega)).resolve_left (by omega)⟩
    · rintro ⟨r, c, hr, hc, hbit, hset⟩
      exact ⟨_, (mem_spriteMarks_at hx hy hr hc).mpr hbit, .inr (.inr hset)⟩

end Machine

end Sys2Proof

/-! ## Encoding and decoding (30_encoding.md) -/

namespace Sys2Proof

/-! ### From an instruction to its word and back (R61, R62) -/

/-- Each format's fields are read where the encoder put them; only SYS needs its well-formedness, since CLS and RET are
read before it. -/
theorem decode_encode {i : Instr} (h : i.WellFormed) : decode (encode i) = .ok i := by
  cases i
  case cls => decide
  case ret => decide
  case sys nnn =>
    have hop : opField (encode (.sys nnn)) = 0x0#4 := opField_wordFA 0x0#4 nnn
    have hne : ∀ m, nnn ≠ m → encode (.sys nnn) ≠ wordFA 0x0#4 m := fun m hm e =>
      hm (by simpa [encode] using congrArg nnnField e)
    rw [decode_of_opField_zero hop, decode0_of_ne (hne 0x0E0#12 h.1) (hne 0x0EE#12 h.2)]
    simp [encode]
  all_goals simp [encode, decode, decode8, decodeE, decodeF]

/-- Settles O1, by the decoding of the encoded word, which its two bytes put together are. -/
theorem decodeOfEncode : Obligations.DecodeOfEncode := by
  refine fun i h => ⟨decode_encode h, fun rest => ?_⟩
  simp [encodeBytes, decodeBytes, decode_encode h]

/-! ### From a word to its instruction and back, group by group -/

theorem encode_of_decode0 {w : Word} (h : opField w = 0x0#4) :
    encode (decode0 w) = w ∧ (decode0 w).WellFormed := by
  by_cases hcls : w = 0x00E0#16
  · subst hcls; exact ⟨by decide, trivial⟩
  by_cases hret : w = 0x00EE#16
  · subst hret; exact ⟨by decide, trivial⟩
  rw [decode0_of_ne hcls hret]
  have hne : ∀ m, w ≠ wordFA 0x0#4 m → nnnField w ≠ m := fun m hm e => hm (by rw [← wordFA_fields w, h, e])
  exact ⟨encode_sys_nnnField h, hne 0x0E0#12 hcls, hne 0x0EE#12 hret⟩

theorem encode_of_decode8 {w : Word} {i : Instr} (h : opField w = 0x8#4) (hd : decode8 w = .ok i) :
    encode i = w ∧ i.WellFormed := by
  have hw := wordFXY_fields w
  rw [h] at hw
  unfold decode8 at hd
  split at hd <;> cases hd <;> simp_all [encode]

theorem encode_of_decodeE {w : Word} {i : Instr} (h : opField w = 0xE#4) (hd : decodeE w = .ok i) :
    encode i = w ∧ i.WellFormed := by
  have hw := wordFXK_fields w
  rw [h] at hw
  unfold decodeE at hd
  split at hd <;> cases hd <;> simp_all [encode]

theorem encode_of_decodeF {w : Word} {i : Instr} (h : opField w = 0xF#4) (hd : decodeF w = .ok i) :
    encode i = w ∧ i.WellFormed := by
  have hw := wordFXK_fields w
  rw [h] at hw
  unfold decodeF at hd
  split at hd <;> cases hd <;> simp_all [encode]

/-- Settles O2, by cases on the major opcode: in each, the word is put together again from the fields of its format. -/
theorem encodeOfDecode : Obligations.EncodeOfDecode := by
  intro w i hd
  have hFA := wordFA_fields w
  have hFXK := wordFXK_fields w
  have hFXY := wordFXY_fields w
  unfold decode at hd
  split at hd
  case h_1 h => cases hd; exact encode_of_decode0 h
  case h_9 h => exact encode_of_decode8 h hd
  case h_15 h => exact encode_of_decodeE h hd
  case h_16 =>
    have h : opField w = 0xF#4 := by
      simp only [imp_false] at *
      bv_omega
    exact encode_of_decodeF h hd
  case h_6 | h_10 =>
    split at hd <;> cases hd
    simp_all [encode]
  all_goals
    cases hd
    simp_all [encode]

/-! ### The illegal words (R64) -/

theorem decode8_eq_illegal_iff (w : Word) : decode8 w = .error (.illegal w) ↔
    nField w ∈ [0x8#4, 0x9#4, 0xA#4, 0xB#4, 0xC#4, 0xD#4, 0xF#4] := by
  unfold decode8
  generalize nField w = n
  split
  case h_10 =>
    simp only [imp_false, List.mem_cons, List.not_mem_nil, or_false, true_iff] at *
    bv_omega
  all_goals simp

theorem decodeE_eq_illegal_iff (w : Word) :
    decodeE w = .error (.illegal w) ↔ kkField w ∉ [0x9E#8, 0xA1#8] := by
  unfold decodeE
  split <;> simp_all

theorem decodeF_eq_illegal_iff (w : Word) : decodeF w = .error (.illegal w) ↔
    kkField w ∉ [0x07#8, 0x0A#8, 0x15#8, 0x18#8, 0x1E#8, 0x29#8, 0x33#8, 0x55#8, 0x65#8] := by
  unfold decodeF
  split <;> simp_all

/-- Settles O3, by cases on the major opcode: the groups 8, E and F have their own lists, 5 and 9 need a low nibble of 0,
and in no other group a word is illegal. -/
theorem illegalWordsAreTheListed : Obligations.IllegalWordsAreTheListed := by
  intro w
  rw [← decode8_eq_illegal_iff, ← decodeE_eq_illegal_iff, ← decodeF_eq_illegal_iff]
  unfold decode
  split
  case h_16 =>
    have h : opField w = 0xF#4 := by
      simp only [imp_false] at *
      bv_omega
    simp [h]
  all_goals next h => simp [h]

/-- The decoder's one error is that its own word is illegal. -/
theorem eq_illegal_of_decode_error {w : Word} {e : DecodeError} (h : decode w = .error e) : e = .illegal w := by
  unfold decode at h
  split at h
  case h_6 | h_10 => split at h <;> cases h; rfl
  case h_9 => unfold decode8 at h; split at h <;> cases h; rfl
  case h_15 => unfold decodeE at h; split at h <;> cases h; rfl
  case h_16 => unfold decodeF at h; split at h <;> cases h; rfl
  all_goals cases h

/-- Settles O4: the words are fixed, so the decoder is run on them. -/
theorem sampleWordsDecode : Obligations.SampleWordsDecode := by
  unfold Obligations.SampleWordsDecode
  decide

end Sys2Proof

/-! ## What each update leaves unchanged -/

namespace Sys2Proof.Machine

section Frames

variable {f : Footprint} {s t u : State}

theorem Keeps.refl (f : Footprint) (s : State) : Keeps f s s := by
  constructor <;> simp

theorem Keeps.trans (h : Keeps f s t) (h' : Keeps f t u) : Keeps f s u where
  regs r hr := (h'.regs r hr).trans (h.regs r hr)
  bytes a ha := (h'.bytes a ha).trans (h.bytes a ha)
  index hf := (h'.index hf).trans (h.index hf)
  stack hf := ⟨(h'.stack hf).1.trans (h.stack hf).1, (h'.stack hf).2.trans (h.stack hf).2⟩
  delay hf := (h'.delay hf).trans (h.delay hf)
  sound hf := (h'.sound hf).trans (h.sound hf)
  latch hf := ⟨(h'.latch hf).1.trans (h.latch hf).1, (h'.latch hf).2.trans (h.latch hf).2⟩
  display hf := ⟨(h'.display hf).1.trans (h.display hf).1, (h'.display hf).2.trans (h.display hf).2⟩
  fault hf := (h'.fault hf).trans (h.fault hf)
  draws hf := (h'.draws hf).trans (h.draws hf)
  tdiv := h'.tdiv.trans h.tdiv
  key := h'.key.trans h.key
  config := h'.config.trans h.config

theorem Keeps.advance (h : Keeps f s t) : Keeps f s t.advance :=
  h.trans (Keeps.setPc f t _)

theorem Keeps.setV {x : Reg} (h : Keeps f s t) (hx : x ∈ f.regs) (b : Byte) : Keeps f s (t.setV x b) := by
  refine h.trans ?_
  constructor
  case regs => exact fun r hr => t.getV_setV_ne b fun e => hr (e ▸ hx)
  all_goals simp

theorem Keeps.setFlag (h : Keeps f s t) (hf : Reg.flag ∈ f.regs) (c : Bool) : Keeps f s (t.setFlag c) :=
  h.setV hf _

theorem Keeps.setI (h : Keeps f s t) (hf : f.index = true) (w : Word) : Keeps f s (t.setI w) := by
  refine h.trans ?_
  constructor
  case index => simp [hf]
  all_goals simp

theorem Keeps.setDT (h : Keeps f s t) (hf : f.delay = true) (b : Byte) : Keeps f s (t.setDT b) := by
  refine h.trans ?_
  constructor
  case delay => simp [hf]
  all_goals simp

theorem Keeps.setST (h : Keeps f s t) (hf : f.sound = true) (b : Byte) : Keeps f s (t.setST b) := by
  refine h.trans ?_
  constructor
  case sound => simp [hf]
  all_goals simp

theorem Keeps.latchKeyWait (h : Keeps f s t) (hf : f.latch = true) (x : Reg) : Keeps f s (t.latchKeyWait x) := by
  refine h.trans ?_
  constructor
  case latch => simp [hf]
  all_goals simp

theorem Keeps.setDisplay (h : Keeps f s t) (hf : f.display = true) (fb : Framebuffer) :
    Keeps f s (t.setDisplay fb) := by
  refine h.trans ?_
  constructor
  case display => simp [hf]
  all_goals simp

theorem Keeps.drawRandom (h : Keeps f s t) (hf : f.draws = true) : Keeps f s t.drawRandom.2 := by
  refine h.trans ?_
  constructor
  case draws => simp [hf]
  all_goals simp

/-- STACK and SD are free in a footprint that lists the stack. -/
theorem Keeps.setStack (h : Keeps f s t) (hf : f.stack = true) (stack : Vector Word 16) (sd : Fin 17) :
    Keeps f s { t with stack := stack, sd := sd } := by
  refine h.trans ?_
  constructor
  case stack => simp [hf]
  case regs | bytes => exact fun _ _ => rfl
  all_goals simp

/-- A block transfer moves I only under Q_INDEX_INCREMENT. -/
theorem Keeps.bumpIndex (h : Keeps f s t) (hf : f.index = s.config.qIndexIncrement) (x : Reg) :
    Keeps f s (t.bumpIndex x) := by
  refine h.trans ?_
  constructor
  case index =>
    intro hq
    rw [State.bumpIndex_i, h.config, ← hf, hq, if_neg Bool.false_ne_true]
  all_goals simp

theorem Keeps.storeBytes {bs : List Byte} {a n : Nat} (h : Keeps f s t) (hf : f.bytes = addressesFrom a n)
    (hlen : bs.length = n) : Keeps f s (t.storeBytes a bs) := by
  refine h.trans ?_
  constructor
  case bytes =>
    intro k hk
    rw [hf, mem_addressesFrom] at hk
    rw [State.storeBytes_byteAt, if_neg (hlen ▸ hk)]
  all_goals simp

theorem Keeps.loadBlock {x : Reg} (h : Keeps f s t) (hf : f.regs = regsUpTo x) (a : Nat) :
    Keeps f s (t.loadBlock a (blockSize x)) := by
  refine h.trans ?_
  constructor
  case regs =>
    intro r hr
    rw [hf, mem_regsUpTo] at hr
    rw [State.loadBlock_getV, if_neg (by rw [blockSize]; omega)]
  all_goals simp

end Frames

/-! ### The updates of the ALU, the store and the block transfers -/

/-- One result register, then VF. -/
theorem keeps_flagWrite (s : State) (x : Reg) (b : Byte) (c : Bool) :
    Keeps { regs := [x, Reg.flag] } s ((s.setV x b).setFlag c) :=
  ((Keeps.refl _ s).setV (by simp) b).setFlag (by simp) c

/-- Both registers of a shift, then VF. -/
theorem keeps_shift (s : State) (x y : Reg) (b : Byte) (c : Bool) :
    Keeps { regs := [y, x, Reg.flag] } s (((s.setV y b).setV x b).setFlag c) :=
  (((Keeps.refl _ s).setV (by simp) b).setV (by simp) b).setFlag (by simp) c

theorem keeps_bcdStore (s : State) (b : Byte) :
    Keeps { bytes := addressesFrom s.base 3 } s (s.storeBytes s.base (bcdDigits b)) :=
  (Keeps.refl _ s).storeBytes rfl rfl

theorem keeps_blockStore (s : State) (x : Reg) :
    Keeps { bytes := addressesFrom s.base (blockSize x), index := s.config.qIndexIncrement } s
      ((s.storeBytes s.base (s.regBlock x)).bumpIndex x) :=
  ((Keeps.refl _ s).storeBytes rfl (length_regBlock s x)).bumpIndex rfl x

theorem keeps_blockLoad (s : State) (x : Reg) :
    Keeps { regs := regsUpTo x, index := s.config.qIndexIncrement } s
      ((s.loadBlock s.base (blockSize x)).bumpIndex x) :=
  ((Keeps.refl _ s).loadBlock rfl s.base).bumpIndex rfl x

/-- A sprite drawn, then VF. -/
theorem keeps_draw (s : State) (fb : Framebuffer) (c : Bool) :
    Keeps { regs := [Reg.flag], display := true } s ((s.setDisplay fb).setFlag c) :=
  ((Keeps.refl _ s).setDisplay rfl fb).setFlag (List.mem_singleton_self _) c

end Sys2Proof.Machine

/-! ## What an instruction can do, said once (60_exceptions.md R119, R121) -/

namespace Sys2Proof.Machine

/-- What an instruction may change beside PC when it raises nothing. -/
def footprint (i : Instr) (s : State) : Footprint where
  regs := writtenRegs i
  bytes := storedBytes i s
  index := match i with
    | .ldI _ => true
    | .addI _ => true
    | .ldF _ => true
    | .ldMemVx _ => s.config.qIndexIncrement
    | .ldVxMem _ => s.config.qIndexIncrement
    | _ => false
  stack := match i with
    | .ret => true
    | .call _ => true
    | _ => false
  delay := match i with
    | .ldDTVx _ => true
    | _ => false
  sound := match i with
    | .ldSTVx _ => true
    | _ => false
  latch := match i with
    | .ldVxK _ => true
    | _ => false
  display := match i with
    | .cls => true
    | .drw _ _ _ => true
    | _ => false
  draws := match i with
    | .rnd _ _ => true
    | _ => false

/-- The instructions that 60_exceptions.md R119 lists. -/
def canRaise : Instr → Bool
  | .sys _ => true
  | .call _ => true
  | .ret => true
  | .drw _ _ _ => true
  | .ldB _ => true
  | .ldMemVx _ => true
  | .ldVxMem _ => true
  | .skp _ => true
  | .sknp _ => true
  | _ => false

/-- The bounds of the invariant on MEM, PC and STACK, with the bound of PC given. -/
structure State.Bounds (top : Nat) (s : State) : Prop where
  memory : s.mem.wf
  pc : s.pc.toNat ≤ top
  stack : ∀ j : Fin 16, s.stack[j].toNat ≤ 0x1000

/-- An instruction that raises nothing stays in its footprint, and keeps the bounds of the invariant if it was fetched
from inside memory. -/
structure Completes (f : Footprint) (s t : State) : Prop where
  frame : Keeps f s t
  bounds : s.Bounds 0xFFE → t.Bounds 0x10FE

/-- FAULT gets a record that fits and names PC, and nothing else changes (60_exceptions.md R121). -/
def Raises (s t : State) : Prop := ∃ r, t = { s with fault := some r } ∧ r.pc = s.pc ∧ r.fits = true

/-- What an instruction answers: a listed one may raise, and every one may complete. -/
def Answers (i : Instr) (s t : State) : Prop :=
  (canRaise i = true ∧ Raises s t) ∨ Completes (footprint i s) s t

/-! ### Raising -/

theorem raises_raise {s : State} {k : FaultKind} {w : Option Word} {a : Option Nat} {b : Option Byte}
    (h : (FaultRecord.mk k s.pc w a b).fits = true) : Raises s (s.raise k w a b) :=
  ⟨_, rfl, rfl, h⟩

/-- The failing address that a range check answers is outside memory, so that its record fits. -/
theorem raises_outOfBounds {s : State} {base n a : Nat} (h : checkRange base n = some a) :
    Raises s (s.raise .outOfBoundsAccess none (some a) none) := by
  obtain ⟨_, _, hout, _⟩ := checkRange_some h
  exact raises_raise (by simpa [FaultRecord.fits] using hout)

/-- The word of SYS is a word of the 0-group, so that its record fits. -/
theorem raises_sys (s : State) (nnn : Addr12) :
    Raises s (s.raise .unsupportedInstruction (word := some (encode (.sys nnn)))) :=
  raises_raise (by simp [FaultRecord.fits, encode])

/-! ### Completing -/

section Completion

variable {f : Footprint} {s t : State}

/-- Completion by an advance, after updates that leave PC and STACK and keep MEM canonical. -/
theorem Completes.advance (h : Keeps f s t) (hpc : t.pc = s.pc) (hstack : t.stack = s.stack)
    (hmem : s.mem.wf → t.mem.wf) : Completes f s t.advance where
  frame := h.advance
  bounds hs := by
    refine ⟨hmem hs.memory, ?_, by simpa [hstack] using hs.stack⟩
    have := hs.pc
    rw [State.advance_pc, hpc]
    bv_omega

theorem Completes.skipIf (f : Footprint) (s : State) (c : Bool) : Completes f s (s.skipIf c) where
  frame := Keeps.setPc f s _
  bounds hs := by
    refine ⟨hs.memory, ?_, hs.stack⟩
    have := hs.pc
    rw [State.skipIf_pc]
    split <;> bv_omega

/-- Completion by a jump, after updates that leave MEM and keep the bound of STACK. -/
theorem Completes.setPc {w : Word} (h : Keeps f s t) (hmem : t.mem = s.mem)
    (hstack : s.Bounds 0xFFE → ∀ j : Fin 16, t.stack[j].toNat ≤ 0x1000)
    (hw : s.Bounds 0xFFE → w.toNat ≤ 0x10FE) : Completes f s (t.setPc w) where
  frame := h.trans (Keeps.setPc f t w)
  bounds hs := ⟨by simpa [hmem] using hs.memory, hw hs, hstack hs⟩

end Completion

theorem toNat_addrWord_le (nnn : Addr12) : (addrWord nnn).toNat ≤ 0x10FE := by
  rw [toNat_addrWord]
  omega

/-- JP V0's target is an unwrapped sum (R78). -/
theorem toNat_addrWord_add_byteWord (nnn : Addr12) (b : Byte) :
    (addrWord nnn + byteWord b).toNat = nnn.toNat + b.toNat := by
  rw [BitVec.toNat_add, toNat_addrWord, byteWord, BitVec.toNat_setWidth_of_le (by decide)]
  omega

/-- A store that passed its check keeps MEM canonical. -/
theorem storeBytes_mem_wf {s : State} {bs : List Byte} (h : checkRange s.base bs.length = none)
    (hs : s.mem.wf) : (s.storeBytes s.base bs).mem.wf := by
  rw [checkRange_none] at h
  rcases h with h | h
  · exact Memory.writeBytes_wf hs h
  · rw [List.eq_nil_of_length_eq_zero h]
    exact hs

/-! ### The return stack (40_control_flow.md R71, R73) -/

theorem exec_ret_of_empty {s : State} (h : s.sd.val = 0) : exec .ret s = .next (s.raise .stackUnderflow) := by
  show execRet s = _
  rcases s.pop_cases with ⟨_, hpop⟩ | ⟨hsd, _⟩
  · rw [execRet, hpop]
  · omega

theorem exec_ret_of_frame {s : State} (h : 0 < s.sd.val) : exec .ret s =
    .next ({ s with sd := ⟨s.sd.val - 1, by omega⟩ }.setPc s.stack[s.sd.val - 1]) := by
  show execRet s = _
  rcases s.pop_cases with ⟨hsd, _⟩ | ⟨_, hpop⟩
  · omega
  · rw [execRet, hpop]

theorem exec_call_of_full {s : State} (h : s.sd.val = 16) (nnn : Addr12) :
    exec (.call nnn) s = .next (s.raise .stackOverflow) := by
  show execCall nnn s = _
  rcases s.push_cases (s.pc + 2#16) with ⟨_, hpush⟩ | ⟨hsd, _⟩
  · rw [execCall, hpush]
  · omega

theorem exec_call_of_room {s : State} (h : s.sd.val < 16) (nnn : Addr12) : exec (.call nnn) s =
    .next ({ s with stack := s.stack.set s.sd.val (s.pc + 2#16), sd := ⟨s.sd.val + 1, by omega⟩ }.setPc
      (addrWord nnn)) := by
  show execCall nnn s = _
  rcases s.push_cases (s.pc + 2#16) with ⟨hsd, _⟩ | ⟨_, hpush⟩
  · omega
  · rw [execCall, hpush]

theorem ret_answers (s : State) : ∃ t, exec .ret s = .next t ∧ Answers .ret s t := by
  rcases Nat.eq_zero_or_pos s.sd.val with h | h
  · exact ⟨_, exec_ret_of_empty h, .inl ⟨rfl, raises_raise rfl⟩⟩
  · refine ⟨_, exec_ret_of_frame h,
      .inr (.setPc ((Keeps.refl _ s).setStack rfl _ _) rfl (·.stack) fun hs => ?_)⟩
    exact (hs.stack ⟨s.sd.val - 1, by omega⟩).trans (by decide)

theorem call_answers (nnn : Addr12) (s : State) :
    ∃ t, exec (.call nnn) s = .next t ∧ Answers (.call nnn) s t := by
  rcases Nat.lt_or_ge s.sd.val 16 with h | h
  · refine ⟨_, exec_call_of_room h nnn, .inr (.setPc ((Keeps.refl _ s).setStack rfl _ _) rfl (fun hs j => ?_)
      fun _ => toNat_addrWord_le nnn)⟩
    show (s.stack.set s.sd.val (s.pc + 2#16))[j.val].toNat ≤ 0x1000
    rw [Vector.getElem_set]
    split
    · have := hs.pc
      bv_omega
    · exact hs.stack j
  · exact ⟨_, exec_call_of_full (by omega) nnn, .inl ⟨rfl, raises_raise rfl⟩⟩

/-! ### Every instruction -/

theorem answers_checked {i : Instr} (hi : canRaise i = true) {s body : State} {n : Nat}
    (hbody : checkRange s.base n = none → Completes (footprint i s) s body) :
    Answers i s (s.checked s.base n body) := by
  rcases s.checked_cases s.base n body with ⟨a, ha, h⟩ | ⟨hin, h⟩ <;> rw [h]
  · exact .inl ⟨hi, raises_outOfBounds ha⟩
  · exact .inr (hbody hin)

theorem answers_keySkip {i : Instr} (hi : canRaise i = true) (s : State) (x : Reg) (want : Bool) :
    Answers i s (s.keySkip x want) := by
  rcases s.keySkip_cases x want with ⟨hx, h⟩ | ⟨_, h⟩ <;> rw [h]
  · exact .inl ⟨hi, raises_raise (by simpa [FaultRecord.fits] using hx)⟩
  · exact .inr (.skipIf _ s _)

/-- Every instruction answers a next state: a listed one may raise its fault and change FAULT alone, and otherwise the
instruction completes inside its footprint. -/
theorem exec_answers (i : Instr) (s : State) : ∃ t, exec i s = .next t ∧ Answers i s t := by
  have base : Keeps (footprint i s) s s := .refl _ s
  cases i
  case cls => exact ⟨_, rfl, .inr (.advance (base.setDisplay rfl _) rfl rfl id)⟩
  case ret => exact ret_answers s
  case sys nnn => exact ⟨_, rfl, .inl ⟨rfl, raises_sys s nnn⟩⟩
  case call nnn => exact call_answers nnn s
  case jp nnn => exact ⟨_, rfl, .inr (.setPc base rfl (·.stack) fun _ => toNat_addrWord_le nnn)⟩
  case jpV0 nnn =>
    refine ⟨_, rfl, .inr (.setPc base rfl (·.stack) fun _ => ?_)⟩
    rw [toNat_addrWord_add_byteWord]
    omega
  case seImm | sneImm | seReg | sneReg => exact ⟨_, rfl, .inr (.skipIf _ s _)⟩
  case ldImm | addImm | ldReg | orReg | andReg | xorReg | ldVxDT =>
    exact ⟨_, rfl, .inr (.advance (base.setV (List.mem_singleton_self _) _) rfl rfl id)⟩
  case rnd =>
    exact ⟨_, rfl, .inr (.advance ((base.drawRandom rfl).setV (List.mem_singleton_self _) _) rfl rfl id)⟩
  case addReg | sub | subn => exact ⟨_, rfl, .inr (.advance (keeps_flagWrite s _ _ _) rfl rfl id)⟩
  case shr | shl => exact ⟨_, rfl, .inr (.advance (keeps_shift s _ _ _ _) rfl rfl id)⟩
  case ldI | addI | ldF => exact ⟨_, rfl, .inr (.advance (base.setI rfl _) rfl rfl id)⟩
  case skp | sknp => exact ⟨_, rfl, answers_keySkip rfl s _ _⟩
  case ldVxK => exact ⟨_, rfl, .inr (.advance (base.latchKeyWait rfl _) rfl rfl id)⟩
  case ldDTVx => exact ⟨_, rfl, .inr (.advance (base.setDT rfl _) rfl rfl id)⟩
  case ldSTVx => exact ⟨_, rfl, .inr (.advance (base.setST rfl _) rfl rfl id)⟩
  case drw => exact ⟨_, rfl, answers_checked rfl fun _ => .advance (keeps_draw s _ _) rfl rfl id⟩
  case ldB =>
    exact ⟨_, rfl, answers_checked rfl fun h => .advance (keeps_bcdStore s _) rfl rfl (storeBytes_mem_wf h)⟩
  case ldMemVx x =>
    refine ⟨_, rfl, answers_checked rfl fun h => .advance (keeps_blockStore s x) (by simp) (by simp) fun hs => ?_⟩
    rw [State.bumpIndex_mem]
    exact storeBytes_mem_wf (by rwa [length_regBlock]) hs
  case ldVxMem x =>
    exact ⟨_, rfl, answers_checked rfl fun _ => .advance (keeps_blockLoad s x) (by simp) (by simp) (by simp)⟩

end Sys2Proof.Machine

/-! ## The step and its invariant (70_reset_and_hazards.md R139; 60_exceptions.md R119 to R123) -/

namespace Sys2Proof.Machine

/-! ### One step -/

theorem step_of_fault {s : State} {r : FaultRecord} (h : s.fault = some r) : step s = .fault (.machineFaulted r) := by
  unfold step
  rw [h]

theorem step_of_halt {s : State} (hf : s.fault = none) (hh : s.halt = true) : step s = .next s := by
  unfold step
  simp [hf, hh]

theorem step_of_fetchError {s : State} {a : Nat} (hf : s.fault = none) (hh : s.halt = false)
    (hw : s.fetchWord = .error a) : step s = .next (s.raise .outOfBoundsAccess none (some a) none) := by
  unfold step
  simp [hf, hh, hw]

theorem step_of_illegal {s : State} {w : Word} {e : DecodeError} (hf : s.fault = none) (hh : s.halt = false)
    (hw : s.fetchWord = .ok w) (hd : decode w = .error e) :
    step s = .next (s.raise .illegalOpcode (some w) none none) := by
  unfold step
  simp [hf, hh, hw, hd]

theorem step_of_instr {s : State} {w : Word} {i : Instr} (hf : s.fault = none) (hh : s.halt = false)
    (hw : s.fetchWord = .ok w) (hd : decode w = .ok i) : step s = endResult (exec i s) := by
  unfold step
  simp [hf, hh, hw, hd]

/-- A fetch that fails names an address outside memory, so that its record fits. -/
theorem raises_fetchError {s : State} {a : Nat} (h : s.fetchWord = .error a) :
    Raises s (s.raise .outOfBoundsAccess none (some a) none) := by
  rcases s.fetchWord_cases with ⟨_, hok⟩ | ⟨_, herr⟩
  · rw [hok] at h; contradiction
  · rw [herr] at h
    cases h
    exact raises_raise (by simp [FaultRecord.fits])

theorem raises_illegal {s : State} {w : Word} {e : DecodeError} (h : decode w = .error e) :
    Raises s (s.raise .illegalOpcode (some w) none none) := by
  rw [eq_illegal_of_decode_error h] at h
  exact raises_raise (by simp [FaultRecord.fits, h])

/-- The three things a step of an unfaulted machine can be: nothing at all, a raise, or a completed instruction and its
tick. -/
inductive StepOutcome (s : State) : State → Prop where
  | halted : s.halt = true → StepOutcome s s
  | raised {t : State} : s.halt = false → Raises s t → StepOutcome s t
  | completed {u : State} {i : Instr} : s.halt = false → s.pc.toNat ≤ 0xFFE → Completes (footprint i s) s u →
      StepOutcome s u.tick

theorem step_answers {s : State} (hf : s.fault = none) : ∃ t, step s = .next t ∧ StepOutcome s t := by
  cases hh : s.halt with
  | true => exact ⟨s, step_of_halt hf hh, .halted hh⟩
  | false =>
    cases hw : s.fetchWord with
    | error a => exact ⟨_, step_of_fetchError hf hh hw, .raised hh (raises_fetchError hw)⟩
    | ok w =>
      cases hd : decode w with
      | error e => exact ⟨_, step_of_illegal hf hh hw hd, .raised hh (raises_illegal hd)⟩
      | ok i =>
        obtain ⟨u, hu, hans⟩ := exec_answers i s
        have hs := step_of_instr hf hh hw hd
        rw [hu, endResult_next] at hs
        rcases hans with ⟨_, hr⟩ | hc
        · obtain ⟨r, rfl, hrecord⟩ := hr
          rw [State.endStep_faulted rfl] at hs
          exact ⟨_, hs, .raised hh ⟨r, rfl, hrecord⟩⟩
        · rw [State.endStep_running ((hc.frame.fault rfl).trans hf)] at hs
          have hpc : s.pc.toNat ≤ 0xFFE := by
            rcases s.fetchWord_cases with ⟨h, _⟩ | ⟨_, herr⟩
            · rw [memSize] at h; omega
            · rw [herr] at hw; contradiction
          exact ⟨_, hs, .completed hh hpc hc⟩

/-- A step that answers a next state is one of an unfaulted machine. -/
theorem step_next_cases {s t : State} (h : step s = .next t) : s.fault = none ∧ StepOutcome s t := by
  cases hf : s.fault with
  | some r => rw [step_of_fault hf] at h; contradiction
  | none =>
    obtain ⟨t', ht', hout⟩ := step_answers hf
    rw [ht'] at h
    cases h
    exact ⟨rfl, hout⟩

/-- Settles O7, by what a step of an unfaulted machine answers. -/
theorem onlyAFaultedMachineTakesNoStep : Obligations.OnlyAFaultedMachineTakesNoStep := by
  refine fun s => ⟨fun r => step_of_fault, fun hf => ?_⟩
  obtain ⟨t, ht, _⟩ := step_answers hf
  exact ⟨t, ht⟩

/-- Settles O6, by the branch of a pending key wait. -/
theorem haltedStepChangesNothing : Obligations.HaltedStepChangesNothing :=
  fun _ => step_of_halt

/-- Settles O8, by the branch of an illegal word, whose raise is the record that the statement writes out. -/
theorem illegalWordRaises : Obligations.IllegalWordRaises :=
  fun _ _ => step_of_illegal

theorem fetchWord_of_le {s : State} (h : s.pc.toNat ≤ 0xFFE) :
    s.fetchWord = .ok (wordOfBytes (s.byteAt s.pc.toNat) (s.byteAt (s.pc.toNat + 1))) := by
  rcases s.fetchWord_cases with ⟨_, hw⟩ | ⟨hout, _⟩
  · exact hw
  · rw [memSize] at hout; omega

theorem fetchWord_of_gt {s : State} (h : 0xFFF ≤ s.pc.toNat) : s.fetchWord = .error (max s.pc.toNat 0x1000) := by
  rcases s.fetchWord_cases with ⟨hin, _⟩ | ⟨_, hw⟩
  · rw [memSize] at hin; omega
  · exact hw

/-- Settles O5, by the fetch inside memory and the end of a step. -/
theorem stepRunsDecodedInstruction : Obligations.StepRunsDecodedInstruction := by
  intro s i hf hh hpc hd
  have hs := step_of_instr hf hh (fetchWord_of_le hpc) hd
  refine ⟨hs, fun t ht => ?_⟩
  rw [hs, ht, endResult_next, State.endStep]
  cases t.fault <;> rfl

theorem toNat_wordOfBytes (hi lo : Byte) : (wordOfBytes hi lo).toNat = 256 * hi.toNat + lo.toNat := by
  rw [wordOfBytes, BitVec.toNat_append, ← Nat.shiftLeft_add_eq_or_of_lt lo.isLt, Nat.shiftLeft_eq]
  omega

/-- Settles O9, by the cases of the fetch. -/
theorem fetchIsBigEndianAndBounded : Obligations.FetchIsBigEndianAndBounded := by
  refine fun s => ⟨fun hpc => ⟨_, fetchWord_of_le hpc, toNat_wordOfBytes _ _⟩, fun hpc hf hh => ?_⟩
  rw [step_of_fetchError hf hh (fetchWord_of_gt hpc), State.raise]

/-- Settles O10, by the outcomes of a step: only the raise leaves FAULT set. -/
theorem faultingStepChangesOnlyFault : Obligations.FaultingStepChangesOnlyFault := by
  intro s t r hs ht
  obtain ⟨hf, hout⟩ := step_next_cases hs
  cases hout with
  | halted => rw [hf] at ht; contradiction
  | raised _ hr =>
    obtain ⟨r', rfl, hpc, hfits⟩ := hr
    cases ht
    exact ⟨rfl, hpc, hfits⟩
  | completed _ _ hc =>
    rw [State.tick_fault, hc.frame.fault rfl, hf] at ht
    contradiction

/-! ### The invariant -/

/-- The tick keeps TDIV below TIMER_DIVIDER. -/
theorem tick_divider {s : State} (h : s.tdiv < s.config.timerDivider) : s.tick.tdiv < s.tick.config.timerDivider := by
  rw [State.tick_tdiv, State.tick_config]
  split <;> omega

/-- Settles O11, by the outcomes of a step: a raise leaves all but FAULT, and a completed instruction keeps the
bounds. -/
theorem stepKeepsInv : Obligations.StepKeepsInv := by
  intro s t hinv hs
  obtain ⟨hf, hout⟩ := step_next_cases hs
  cases hout with
  | halted => exact hinv
  | raised hh hr =>
    obtain ⟨r, rfl, hpc, hfits⟩ := hr
    exact ⟨hinv.memory, hinv.divider, hinv.pcBound, hinv.stackBound,
      fun r' hr' => by cases hr'; exact ⟨hfits, hpc⟩, fun _ => hh⟩
  | @completed u _ _ hpc hc =>
    obtain ⟨hmem, hpc', hstack⟩ := hc.bounds ⟨hinv.memory, hpc, hinv.stackBound⟩
    have hfault : u.tick.fault = none := by rw [State.tick_fault, hc.frame.fault rfl, hf]
    have hdiv : u.tdiv < u.config.timerDivider := by
      rw [hc.frame.tdiv, hc.frame.config]
      exact hinv.divider
    exact ⟨by rwa [State.tick_mem], tick_divider hdiv, by rwa [State.tick_pc], by simpa using hstack,
      fun r hr => by rw [hfault] at hr; contradiction, fun h => absurd hfault h⟩

/-- Settles O12: every bound is checked on the fixed reset state. -/
theorem resetHasInv : Obligations.ResetHasInv where
  memory := State.reset_mem_wf
  divider := by decide
  pcBound := by decide
  stackBound := by decide
  faultFits := fun _ h => nomatch h
  faultNotHalted := fun h => absurd rfl h

/-- Boot establishes the invariant for every divider of at least 1. -/
theorem bootState_inv {c : Config} (hc : 0 < c.timerDivider) (d : Nat) {image : List Byte}
    (h : image.length ≤ maxImage) : (bootState c d image).Inv where
  memory := bootMemory_wf c h
  divider := hc
  pcBound := by rw [bootState_pc]; decide
  stackBound := by simp
  faultFits := fun _ h => nomatch h
  faultNotHalted := fun h => absurd rfl h

theorem handleKeyEvent_keeps_inv {s : State} (h : s.Inv) (k : Key) (p : Bool) : (s.handleKeyEvent k p).Inv := by
  rcases s.handleKeyEvent_cases k p with ⟨_, _, _, he⟩ | ⟨_, he⟩ <;> rw [he]
  · exact ⟨h.memory, h.divider, h.pcBound, h.stackBound, h.faultFits, fun _ => rfl⟩
  · exact ⟨h.memory, h.divider, h.pcBound, h.stackBound, h.faultFits, h.faultNotHalted⟩

theorem render_keeps_inv {s : State} (h : s.Inv) : s.render.2.Inv := by
  rcases s.render_cases with ⟨_, he⟩ | ⟨_, he⟩ <;> rw [he]
  · exact ⟨h.memory, h.divider, h.pcBound, h.stackBound, h.faultFits, h.faultNotHalted⟩
  · exact h

theorem hostOp_keeps_inv {op : HostOp} {s t : State} (hs : s.Inv) (h : hostOp op s = .next t) : t.Inv := by
  cases op with
  | boot image =>
    rw [hostOp, State.boot, bootWith] at h
    split at h
    · contradiction
    · next hlen =>
      cases h
      exact bootState_inv (Nat.zero_lt_of_lt hs.divider) _ (Nat.not_lt.mp hlen)
  | step => exact stepKeepsInv s t hs h
  | keyEvent k p => cases h; exact handleKeyEvent_keeps_inv hs k p
  | render => cases h; exact render_keeps_inv hs

/-- Settles O13, by induction on the transactions. -/
theorem hostRunKeepsInv : Obligations.HostRunKeepsInv := by
  intro ops
  induction ops with
  | nil => intro s t hs h; cases h; exact hs
  | cons op ops ih =>
    intro s t hs h
    rw [hostRun] at h
    cases hop : hostOp op s with
    | next u => rw [hop] at h; exact ih u t (hostOp_keeps_inv hs hop) h
    | fault _ => rw [hop] at h; contradiction
    | refused _ => rw [hop] at h; contradiction

/-! ### Who raises, and who writes what (10_state.md R21, R28 to R42) -/

/-- Settles O14: an instruction outside the list cannot raise, and completing leaves FAULT. -/
theorem onlyListedInstructionsRaise : Obligations.OnlyListedInstructionsRaise := by
  intro i s
  obtain ⟨t, ht, hans⟩ := exec_answers i s
  refine ⟨t, ht, ?_⟩
  rcases hans with ⟨hi, _⟩ | hc
  · right
    cases i <;> trivial
  · exact .inl (hc.frame.fault rfl)

/-- A next state of `exec` is one that `exec_answers` describes. -/
theorem answers_of_exec {i : Instr} {s t : State} (h : exec i s = .next t) : Answers i s t := by
  obtain ⟨t', ht', hans⟩ := exec_answers i s
  rw [ht'] at h
  cases h
  exact hans

/-- Settles O56: a raise writes no register and no byte, and completing stays in the footprint. -/
theorem onlyListedRegistersAndBytesChange : Obligations.OnlyListedRegistersAndBytesChange := by
  intro i s t h
  rcases answers_of_exec h with ⟨_, _, rfl, _⟩ | hc
  · exact ⟨fun _ _ => rfl, fun _ _ => rfl⟩
  · exact ⟨hc.frame.regs, hc.frame.bytes⟩

theorem footprint_stack (i : Instr) (s : State) :
    (footprint i s).stack = true ↔ i = .ret ∨ ∃ nnn, i = .call nnn := by
  cases i <;> simp [footprint]

theorem footprint_display (i : Instr) (s : State) :
    (footprint i s).display = true ↔ i = .cls ∨ ∃ x y n, i = .drw x y n := by
  cases i <;> simp [footprint]

theorem footprint_latch (i : Instr) (s : State) : (footprint i s).latch = true ↔ ∃ x, i = .ldVxK x := by
  cases i <;> simp [footprint]

theorem footprint_delay (i : Instr) (s : State) : (footprint i s).delay = true ↔ ∃ x, i = .ldDTVx x := by
  cases i <;> simp [footprint]

theorem footprint_sound (i : Instr) (s : State) : (footprint i s).sound = true ↔ ∃ x, i = .ldSTVx x := by
  cases i <;> simp [footprint]

/-- Settles O57: what changed is in the footprint of the instruction that completed. -/
theorem controlStateWriters : Obligations.ControlStateWriters := by
  intro i s t h
  rcases answers_of_exec h with ⟨_, _, rfl, _⟩ | hc
  · simp
  · refine ⟨?_, ?_, ?_, ?_, ?_, hc.frame.tdiv, hc.frame.key, hc.frame.config⟩
    · refine fun hne => (footprint_stack i s).mp (Bool.of_not_eq_false fun hf => ?_)
      simp [hc.frame.stack hf] at hne
    · refine fun hne => (footprint_display i s).mp (Bool.of_not_eq_false fun hf => ?_)
      simp [hc.frame.display hf] at hne
    · refine fun hne => (footprint_latch i s).mp (Bool.of_not_eq_false fun hf => ?_)
      simp [hc.frame.latch hf] at hne
    · exact fun hne => (footprint_delay i s).mp (Bool.of_not_eq_false fun hf => hne (hc.frame.delay hf))
    · exact fun hne => (footprint_sound i s).mp (Bool.of_not_eq_false fun hf => hne (hc.frame.sound hf))

end Sys2Proof.Machine

/-! ## What is never read (10_state.md R21, R29, R30, R37)

Two runs of one instruction from related states: each shared operation keeps the relation, and so does the instruction. -/

namespace Sys2Proof.Machine

/-- From `s` and `s'` the instruction answers states that are related again. -/
def Relates (R : State → State → Prop) (i : Instr) (s s' : State) : Prop :=
  ∃ t u, exec i s = .next t ∧ exec i s' = .next u ∧ R t u

section Relations

variable {R : State → State → Prop} {s s' : State}

theorem rel_checked {body body' : State} {base n : Nat}
    (hraise : ∀ a, R (s.raise .outOfBoundsAccess none (some a) none) (s'.raise .outOfBoundsAccess none (some a) none))
    (hbody : R body body') : R (s.checked base n body) (s'.checked base n body') := by
  unfold State.checked
  cases checkRange base n with
  | none => exact hbody
  | some a => exact hraise a

theorem rel_keySkip {x : Reg} (want : Bool)
    (hraise : ∀ b, R (s.raise .keyIndexOutOfRange none none (some b)) (s'.raise .keyIndexOutOfRange none none (some b)))
    (hskip : ∀ c, R (s.skipIf c) (s'.skipIf c)) (hx : s'.getV x = s.getV x) (hkey : s'.key = s.key) :
    R (s.keySkip x want) (s'.keySkip x want) := by
  unfold State.keySkip State.keyDown
  rw [hx, hkey]
  split
  · exact hraise _
  · exact hskip _

theorem relates_ret (hsd : s'.sd = s.sd)
    (hraise : R (s.raise .stackUnderflow) (s'.raise .stackUnderflow))
    (hpop : ∀ h : 0 < s.sd.val, R ({ s with sd := ⟨s.sd.val - 1, by omega⟩ }.setPc s.stack[s.sd.val - 1])
      ({ s' with sd := ⟨s.sd.val - 1, by omega⟩ }.setPc s'.stack[s.sd.val - 1])) : Relates R .ret s s' := by
  rcases Nat.eq_zero_or_pos s.sd.val with h | h
  · exact ⟨_, _, exec_ret_of_empty h, exec_ret_of_empty (hsd ▸ h), hraise⟩
  · refine ⟨_, _, exec_ret_of_frame h, exec_ret_of_frame (hsd ▸ h), ?_⟩
    simpa only [hsd] using hpop h

theorem relates_call {nnn : Addr12} (hsd : s'.sd = s.sd)
    (hraise : R (s.raise .stackOverflow) (s'.raise .stackOverflow))
    (hpush : ∀ h : s.sd.val < 16,
      R ({ s with stack := s.stack.set s.sd.val (s.pc + 2#16), sd := ⟨s.sd.val + 1, by omega⟩ }.setPc (addrWord nnn))
        ({ s' with stack := s'.stack.set s.sd.val (s'.pc + 2#16), sd := ⟨s.sd.val + 1, by omega⟩ }.setPc
          (addrWord nnn))) : Relates R (.call nnn) s s' := by
  rcases Nat.lt_or_ge s.sd.val 16 with h | h
  · refine ⟨_, _, exec_call_of_room h nnn, exec_call_of_room (hsd ▸ h) nnn, ?_⟩
    simpa only [hsd] using hpush h
  · exact ⟨_, _, exec_call_of_full (by omega) nnn, exec_call_of_full (by rw [hsd]; omega) nnn, hraise⟩

/-- A block transfer moves I alike after an update that leaves I and the parameters alone. -/
theorem bumpIndex_comm {p : State → State} (x : Reg) (hconfig : (p s).config = s.config) (hi : (p s).i = s.i)
    (hsetI : ∀ w, (p s).setI w = p (s.setI w)) : (p s).bumpIndex x = p (s.bumpIndex x) := by
  unfold State.bumpIndex
  rw [hconfig, hi]
  split
  · exact hsetI _
  · rfl

end Relations

/-! ### ST and DIRTY -/

/-- Another ST and another DIRTY. -/
def State.resound (s : State) (b : Byte) (d : Bool) : State := { s with st := b, dirty := d }

/-- The states are the same but for ST and DIRTY. -/
def SameButSound (t u : State) : Prop := ∃ b d, u = t.resound b d

section SameButSound

variable {s t u : State}

theorem SameButSound.advance (h : SameButSound t u) : SameButSound t.advance u.advance := by
  obtain ⟨b, d, rfl⟩ := h
  exact ⟨b, d, rfl⟩

theorem SameButSound.bumpIndex (h : SameButSound t u) (x : Reg) :
    SameButSound (t.bumpIndex x) (u.bumpIndex x) := by
  obtain ⟨b, d, rfl⟩ := h
  exact ⟨b, d, bumpIndex_comm (p := (·.resound b d)) x rfl rfl fun _ => rfl⟩

theorem SameButSound.endStep (h : SameButSound t u) : SameButSound t.endStep u.endStep := by
  obtain ⟨b, d, rfl⟩ := h
  cases hf : t.fault with
  | some r =>
    rw [State.endStep_faulted hf, State.endStep_faulted (s := t.resound b d) hf]
    exact ⟨b, d, rfl⟩
  | none =>
    rw [State.endStep_running hf, State.endStep_running (s := t.resound b d) hf]
    rcases t.tick_cases with ⟨hd, he⟩ | ⟨hd, he⟩ <;> rw [he]
    · exact ⟨countDown b, d, if_pos hd⟩
    · exact ⟨b, d, if_neg hd⟩

/-- No instruction reads ST or DIRTY. -/
theorem relates_resound (i : Instr) (s : State) (b : Byte) (d : Bool) :
    Relates SameButSound i s (s.resound b d) := by
  have hraise : ∀ k w a v, SameButSound (s.raise k w a v) ((s.resound b d).raise k w a v) :=
    fun _ _ _ _ => ⟨b, d, rfl⟩
  cases i
  case ret => exact relates_ret rfl (hraise _ _ _ _) fun _ => ⟨b, d, rfl⟩
  case call => exact relates_call rfl (hraise _ _ _ _) fun _ => ⟨b, d, rfl⟩
  case skp | sknp =>
    exact ⟨_, _, rfl, rfl,
      rel_keySkip (R := SameButSound) _ (fun _ => hraise _ _ _ _) (fun _ => ⟨b, d, rfl⟩) rfl rfl⟩
  case drw | ldB =>
    exact ⟨_, _, rfl, rfl, rel_checked (R := SameButSound) (fun _ => hraise _ _ _ _) ⟨_, _, rfl⟩⟩
  case ldMemVx x | ldVxMem x =>
    exact ⟨_, _, rfl, rfl, rel_checked (R := SameButSound) (fun _ => hraise _ _ _ _)
      (SameButSound.bumpIndex ⟨b, d, rfl⟩ x).advance⟩
  all_goals exact ⟨_, _, rfl, rfl, _, _, rfl⟩

theorem step_resound (hf : s.fault = none) (b : Byte) (d : Bool) :
    ∃ t u, step s = .next t ∧ step (s.resound b d) = .next u ∧ SameButSound t u := by
  cases hh : s.halt with
  | true => exact ⟨_, _, step_of_halt hf hh, step_of_halt (s := s.resound b d) hf hh, b, d, rfl⟩
  | false =>
    cases hw : s.fetchWord with
    | error a =>
      exact ⟨_, _, step_of_fetchError hf hh hw, step_of_fetchError (s := s.resound b d) hf hh hw, b, d, rfl⟩
    | ok w =>
      cases hd : decode w with
      | error e =>
        exact ⟨_, _, step_of_illegal hf hh hw hd, step_of_illegal (s := s.resound b d) hf hh hw hd, b, d, rfl⟩
      | ok i =>
        obtain ⟨t, u, ht, hu, hR⟩ := relates_resound i s b d
        refine ⟨t.endStep, u.endStep, ?_, ?_, hR.endStep⟩
        · rw [step_of_instr hf hh hw hd, ht, endResult_next]
        · rw [step_of_instr (s := s.resound b d) hf hh hw hd, hu, endResult_next]

end SameButSound

/-- Settles O59: the two steps fetch the same word and take the same branch, no instruction reads ST or DIRTY, and the tick
reads ST for its own new value alone. -/
theorem soundAndDirtyAreNeverRead : Obligations.SoundAndDirtyAreNeverRead := by
  intro s t b d hs
  obtain ⟨hf, _⟩ := step_next_cases hs
  obtain ⟨t', _, ht', hu, b', d', rfl⟩ := step_resound hf b d
  rw [ht'] at hs
  cases hs
  exact ⟨b', d', hu⟩

/-! ### An update that makes no difference, or only its own -/

/-- The update `p` made no difference, or only its own. -/
def Near (p : State → State) (t u : State) : Prop := u = t ∨ u = p t

section Near

variable {p : State → State} {s t u : State}

/-- An operation that commutes with the update keeps this. -/
theorem Near.map {g : State → State} (h : Near p t u) (hg : g (p t) = p (g t)) : Near p (g t) (g u) := by
  rcases h with rfl | rfl
  · exact .inl rfl
  · exact .inr hg

theorem Near.bumpIndex (h : Near p t u) (hconfig : (p t).config = t.config) (hi : (p t).i = t.i)
    (hsetI : ∀ w, (p t).setI w = p (t.setI w)) (x : Reg) : Near p (t.bumpIndex x) (u.bumpIndex x) :=
  h.map (g := (·.bumpIndex x)) (bumpIndex_comm x hconfig hi hsetI)

end Near

/-! ### Stale stack slots (R29) -/

/-- Another word in a stack slot. -/
def State.setSlot (s : State) (j : Fin 16) (w : Word) : State := { s with stack := s.stack.set j.val w }

/-- CALL overwrites the slot SD, and leaves every other. -/
theorem near_call {s : State} (j : Fin 16) (w v pc : Word) (h : s.sd.val < 16) (sd : Fin 17) :
    Near (·.setSlot j w) ({ s with stack := s.stack.set s.sd.val v, sd := sd }.setPc pc)
      ({ s.setSlot j w with stack := (s.setSlot j w).stack.set s.sd.val v, sd := sd }.setPc pc) := by
  by_cases hj : j.val = s.sd.val
  · left
    simp [State.setSlot, hj]
  · right
    simp [State.setSlot, State.setPc, Vector.set_comm _ _ hj]

/-- Settles O60: RET reads the slot SD - 1, CALL overwrites the slot SD, and no other instruction uses STACK. -/
theorem staleSlotsAreNeverRead : Obligations.StaleSlotsAreNeverRead := by
  intro i s j w hj
  show Relates (Near (·.setSlot j w)) i s (s.setSlot j w)
  have base : Near (·.setSlot j w) s (s.setSlot j w) := .inr rfl
  cases i
  case ret =>
    refine relates_ret rfl (.inr rfl) fun h => .inr ?_
    have hne : (s.setSlot j w).stack[s.sd.val - 1] = s.stack[s.sd.val - 1] :=
      Vector.getElem_set_ne j.isLt (by omega) (by omega)
    rw [hne]
    rfl
  case call nnn => exact relates_call rfl (.inr rfl) fun h => near_call j w _ _ h _
  case skp | sknp =>
    exact ⟨_, _, rfl, rfl, rel_keySkip _ (fun _ => .inr rfl) (fun _ => .inr rfl) rfl rfl⟩
  case drw | ldB => exact ⟨_, _, rfl, rfl, rel_checked (fun _ => .inr rfl) (.inr rfl)⟩
  case ldMemVx x =>
    have hstore := base.map (g := (·.storeBytes s.base (s.regBlock x))) rfl
    exact ⟨_, _, rfl, rfl, rel_checked (fun _ => .inr rfl)
      ((hstore.bumpIndex rfl rfl (fun _ => rfl) x).map (g := State.advance) rfl)⟩
  case ldVxMem x =>
    have hload := base.map (g := (·.loadBlock s.base (blockSize x))) rfl
    exact ⟨_, _, rfl, rfl, rel_checked (fun _ => .inr rfl)
      ((hload.bumpIndex rfl rfl (fun _ => rfl) x).map (g := State.advance) rfl)⟩
  all_goals exact ⟨_, _, rfl, rfl, .inr rfl⟩

/-! ### Registers that are not read (R21) -/

section UnreadRegister

variable {s t u : State} {r x : Reg} {b : Byte}

/-- A register write overwrites the value, or leaves it. -/
theorem Near.setV (h : Near (·.setV r b) t u) (c : Byte) : Near (·.setV r b) (t.setV x c) (u.setV x c) := by
  rcases h with rfl | rfl
  · exact .inl rfl
  · by_cases hx : r = x
    · subst hx
      left
      simp [State.setV]
    · right
      have hne : r.toNat ≠ x.toNat := fun e => hx (BitVec.eq_of_toNat_eq e)
      simp [State.setV, Vector.set_comm _ _ hne]

theorem Near.setFlag (h : Near (·.setV r b) t u) (c : Bool) : Near (·.setV r b) (t.setFlag c) (u.setFlag c) :=
  h.setV _

theorem Near.advance (h : Near (·.setV r b) t u) : Near (·.setV r b) t.advance u.advance :=
  h.map rfl

theorem regBlock_setV (h : x.toNat < r.toNat) : (s.setV r b).regBlock x = s.regBlock x := by
  unfold State.regBlock
  rw [State.setV_v, Vector.toList_set, List.take_set_of_le (by rw [blockSize]; omega)]

/-- A block load overwrites the value, or leaves it. -/
theorem near_loadBlock (a n : Nat) : Near (·.setV r b) (s.loadBlock a n) ((s.setV r b).loadBlock a n) := by
  by_cases h : r.toNat < n
  · left
    have hv : loadRegs s.mem a n (s.v.set r.toNat b) = loadRegs s.mem a n s.v := by
      ext j hj
      rw [getElem_loadRegs _ _ _ _ _ hj, getElem_loadRegs _ _ _ _ _ hj, Vector.getElem_set]
      grind
    simp [State.loadBlock, State.setV, hv]
  · right
    have hv : loadRegs s.mem a n (s.v.set r.toNat b) = (loadRegs s.mem a n s.v).set r.toNat b := by
      ext j hj
      rw [getElem_loadRegs _ _ _ _ _ hj, Vector.getElem_set, Vector.getElem_set, getElem_loadRegs _ _ _ _ _ hj]
      grind
    simp [State.loadBlock, State.setV, hv]

end UnreadRegister

/-- Settles O58: the operands are the same, and each write of a register overwrites the value or leaves it. -/
theorem unreadRegistersInfluenceNothing : Obligations.UnreadRegistersInfluenceNothing := by
  intro i s r b hr
  show Relates (Near (·.setV r b)) i s (s.setV r b)
  have hread : ∀ x ∈ readRegs i, (s.setV r b).getV x = s.getV x :=
    fun x hx => s.getV_setV_ne b fun e => hr (e ▸ hx)
  have base : Near (·.setV r b) s (s.setV r b) := .inr rfl
  cases i <;>
    simp only [readRegs, List.forall_mem_cons, List.not_mem_nil, false_imp_iff, implies_true, and_true] at hread
  case ret => exact relates_ret rfl (.inr rfl) fun _ => .inr rfl
  case call => exact relates_call rfl (.inr rfl) fun _ => .inr rfl
  case jpV0 | seImm | sneImm | seReg | sneReg | ldDTVx | ldSTVx | addI | ldF =>
    refine ⟨_, _, rfl, rfl, ?_⟩
    simp only [hread]
    exact .inr rfl
  case ldImm | ldVxDT => exact ⟨_, _, rfl, rfl, (base.setV _).advance⟩
  case rnd => exact ⟨_, _, rfl, rfl, ((base.map (g := (·.drawRandom.2)) rfl).setV _).advance⟩
  case addImm | ldReg | orReg | andReg | xorReg =>
    refine ⟨_, _, rfl, rfl, ?_⟩
    simp only [hread]
    exact (base.setV _).advance
  case addReg | sub | subn =>
    refine ⟨_, _, rfl, rfl, ?_⟩
    simp only [hread]
    exact ((base.setV _).setFlag _).advance
  case shr | shl =>
    refine ⟨_, _, rfl, rfl, ?_⟩
    simp only [hread]
    exact (((base.setV _).setV _).setFlag _).advance
  case skp | sknp =>
    exact ⟨_, _, rfl, rfl, rel_keySkip _ (fun _ => .inr rfl) (fun _ => .inr rfl) hread rfl⟩
  case drw x y n =>
    have hdraw : (s.setV r b).drawSprite x y n = s.drawSprite x y n := by
      unfold State.drawSprite
      simp only [hread]
      rfl
    refine ⟨_, _, rfl, rfl, rel_checked (fun _ => .inr rfl) ?_⟩
    rw [hdraw]
    exact ((base.map (g := (·.setDisplay _)) rfl).setFlag _).advance
  case ldB x =>
    refine ⟨_, _, rfl, rfl, rel_checked (fun _ => .inr rfl) ?_⟩
    rw [hread]
    exact .inr rfl
  case ldMemVx x =>
    have hx : x.toNat < r.toNat := by simpa [readRegs, mem_regsUpTo] using hr
    refine ⟨_, _, rfl, rfl, rel_checked (fun _ => .inr rfl) ?_⟩
    rw [regBlock_setV hx]
    exact ((base.map (g := (·.storeBytes _ _)) rfl).bumpIndex rfl rfl (fun _ => rfl) x).advance
  case ldVxMem x =>
    exact ⟨_, _, rfl, rfl, rel_checked (fun _ => .inr rfl)
      ((near_loadBlock _ _).bumpIndex rfl rfl (fun _ => rfl) x).advance⟩
  all_goals exact ⟨_, _, rfl, rfl, .inr rfl⟩

end Sys2Proof.Machine

/-! ## The instructions one by one -/

namespace Sys2Proof.Machine

/-! ### Jumps and the return stack (40_control_flow.md R71 to R73, R78) -/

/-- Settles O28, by the address extended with zeros. -/
theorem jumpSetsPc : Obligations.JumpSetsPc :=
  fun nnn s => ⟨_, rfl, toNat_addrWord nnn, Keeps.setPc {} s _⟩

/-- Settles O29, by the unwrapped sum. -/
theorem indexedJumpSetsPc : Obligations.IndexedJumpSetsPc :=
  fun nnn s => ⟨_, rfl, toNat_addrWord_add_byteWord nnn _, Keeps.setPc {} s _⟩

/-- Settles O30: the slot SD holds the return address, and a write of one slot leaves the others. -/
theorem callPushesReturnAddress : Obligations.CallPushesReturnAddress := by
  intro nnn s h
  refine ⟨_, exec_call_of_room h nnn, Vector.getElem_set_self _, fun j hj => ?_, rfl, toNat_addrWord nnn,
    ((Keeps.refl _ s).setStack rfl _ _).trans (Keeps.setPc _ _ _)⟩
  exact Vector.getElem_set_ne h j.isLt (Ne.symm hj)

/-- Settles O31, by the pop of a frame, which leaves STACK. -/
theorem retPopsReturnAddress : Obligations.RetPopsReturnAddress :=
  fun s h => ⟨_, exec_ret_of_frame h, rfl, rfl, rfl,
    ((Keeps.refl _ s).setStack rfl s.stack _).trans (Keeps.setPc _ _ _)⟩

/-- Settles O32, by the full and the empty stack. -/
theorem stackFaults : Obligations.StackFaults :=
  fun nnn _ => ⟨fun h => exec_call_of_full h nnn, exec_ret_of_empty⟩

/-- Settles O33: RET reads back the slot that CALL wrote. -/
theorem retAfterCallResumes : Obligations.RetAfterCallResumes := by
  intro nnn s h
  refine ⟨_, _, exec_call_of_room h nnn, exec_ret_of_frame (Nat.succ_pos _), ?_, rfl⟩
  exact Vector.getElem_set_self h

/-! ### ALU (41_alu.md) -/

/-- Settles O37, by the common effect of a register write. -/
theorem addImmediateHasNoFlag : Obligations.AddImmediateHasNoFlag := by
  intro x kk s
  obtain ⟨t, hexec, hx, hpc, hkeeps⟩ := register_write_effect (i := .addImm x kk) (s := s) rfl
  exact ⟨t, hexec, by rw [hx, sumByte_toNat], hpc, hkeeps⟩

/-- Settles O38, by the common effect of a register write, bit by bit. -/
theorem bitwiseOperations : Obligations.BitwiseOperations := by
  refine fun x y s => ⟨?_, ?_, ?_⟩
  · obtain ⟨t, hexec, hx, hpc, hkeeps⟩ := register_write_effect (i := .orReg x y) (s := s) rfl
    exact ⟨t, hexec, fun j => by rw [hx, BitVec.getLsbD_or], hpc, hkeeps⟩
  · obtain ⟨t, hexec, hx, hpc, hkeeps⟩ := register_write_effect (i := .andReg x y) (s := s) rfl
    exact ⟨t, hexec, fun j => by rw [hx, BitVec.getLsbD_and], hpc, hkeeps⟩
  · obtain ⟨t, hexec, hx, hpc, hkeeps⟩ := register_write_effect (i := .xorReg x y) (s := s) rfl
    exact ⟨t, hexec, fun j => by rw [hx, BitVec.getLsbD_xor], hpc, hkeeps⟩

/-- What an instruction does that writes one result register and then VF. -/
theorem flag_write_effect {i : Instr} {s : State} {x : Reg} {b : Byte} {c : Bool}
    (hexec : exec i s = .next ((s.setV x b).setFlag c).advance) :
    ∃ t, exec i s = .next t ∧ (x ≠ Reg.flag → t.getV x = b) ∧ (t.getV Reg.flag = if c then 1 else 0) ∧
      t.pc = s.pc + 2#16 ∧ Keeps { regs := [x, Reg.flag] } s t := by
  refine ⟨_, hexec, fun hx => ?_, ?_, rfl, (keeps_flagWrite s x b c).advance⟩
  · rw [State.advance_getV, State.getV_setFlag, if_neg hx, State.getV_setV_self]
  · rw [State.advance_getV, State.getV_setFlag, if_pos rfl]
    rfl

theorem addCarry_iff (c : Config) (a b : Byte) :
    addCarry c a b = true ↔ 255 < a.toNat + (if c.qAddFlagSelf = true then a else b).toNat := by
  unfold addCarry
  split <;> simp

/-- Settles O39, by the carry of either setting of the quirk. -/
theorem addWithCarry : Obligations.AddWithCarry := by
  intro x y s
  obtain ⟨t, hexec, hx, hflag, hpc, hkeeps⟩ := flag_write_effect (i := .addReg x y) (s := s) rfl
  simp only [addCarry_iff] at hflag
  refine ⟨t, hexec, fun hne => ?_, fun hq => ?_, fun hq => ?_, hpc, hkeeps⟩
  · rw [hx hne, sumByte_toNat]
  · simpa [hq] using hflag
  · simpa [hq] using hflag

theorem diffByte_toNat_emod (a b : Byte) : ((diffByte a b).toNat : Int) = (a.toNat - b.toNat : Int) % 256 := by
  rw [diffByte_toNat]
  split <;> omega

/-- The effect of both subtractions, with minuend `a` and subtrahend `b`. -/
theorem subtract_effect {i : Instr} {s : State} {x : Reg} {a b : Byte}
    (hexec : exec i s = .next ((s.setV x (diffByte a b)).setFlag (noBorrow s.config a b)).advance) :
    ∃ t, exec i s = .next t ∧
      (x ≠ Reg.flag → ((t.getV x).toNat : Int) = (a.toNat - b.toNat : Int) % 256) ∧
      (s.config.qSubFlagStrict = false → t.getV Reg.flag = if b.toNat ≤ a.toNat then 1 else 0) ∧
      (s.config.qSubFlagStrict = true → t.getV Reg.flag = if b.toNat < a.toNat then 1 else 0) ∧
      t.pc = s.pc + 2#16 ∧ Keeps { regs := [x, Reg.flag] } s t := by
  obtain ⟨t, hexec, hx, hflag, hpc, hkeeps⟩ := flag_write_effect hexec
  refine ⟨t, hexec, fun hne => ?_, fun hq => ?_, fun hq => ?_, hpc, hkeeps⟩
  · rw [hx hne, diffByte_toNat_emod]
  · simpa [noBorrow, hq] using hflag
  · simpa [noBorrow, hq] using hflag

/-- Settles O40, by the common effect of the subtractions. -/
theorem subtractWithNoBorrow : Obligations.SubtractWithNoBorrow :=
  fun _ _ _ => ⟨subtract_effect rfl, subtract_effect rfl⟩

/-- The effect of both shifts: the shifted value into both registers, then the bit shifted out into VF. -/
theorem shift_effect {i : Instr} {s : State} {x y : Reg} {b : Byte} {c : Bool}
    (hexec : exec i s = .next (((s.setV y b).setV x b).setFlag c).advance) :
    ∃ t, exec i s = .next t ∧ (x ≠ Reg.flag → t.getV x = b) ∧ (y ≠ Reg.flag → t.getV y = b) ∧
      (t.getV Reg.flag = if c then 1 else 0) ∧ t.pc = s.pc + 2#16 ∧ Keeps { regs := [y, x, Reg.flag] } s t := by
  refine ⟨_, hexec, fun hx => ?_, fun hy => ?_, ?_, rfl, (keeps_shift s x y b c).advance⟩
  · rw [State.advance_getV, State.getV_setFlag, if_neg hx, State.getV_setV_self]
  · rw [State.advance_getV, State.getV_setFlag, if_neg hy, State.getV_setV, State.getV_setV_self, ite_self]
  · rw [State.advance_getV, State.getV_setFlag, if_pos rfl]
    rfl

theorem toNat_flag (c : Bool) : (if c then 1 else 0 : Byte).toNat = if c then 1 else 0 := by
  cases c <;> rfl

/-- Settles O41, by the common effect of the shifts. -/
theorem shiftsWriteBothRegisters : Obligations.ShiftsWriteBothRegisters := by
  refine fun x y s => ⟨?_, ?_⟩
  · obtain ⟨t, hexec, hx, hy, hflag, hpc, hkeeps⟩ := shift_effect (i := .shr x y) (s := s) rfl
    refine ⟨t, hexec, fun hne => ?_, fun hne => ?_, ?_, hpc, hkeeps⟩
    · rw [hx hne, shiftRight_toNat]
    · rw [hy hne, shiftRight_toNat]
    · rw [hflag, toNat_flag]
      simp only [rightOut_iff]
      split <;> omega
  · obtain ⟨t, hexec, hx, hy, hflag, hpc, hkeeps⟩ := shift_effect (i := .shl x y) (s := s) rfl
    refine ⟨t, hexec, fun hne => ?_, fun hne => ?_, ?_, hpc, hkeeps⟩
    · rw [hx hne, shiftLeft_toNat]
    · rw [hy hne, shiftLeft_toNat]
    · have hb := (s.getV y).isLt
      rw [hflag, toNat_flag]
      simp only [leftOut_iff]
      split <;> omega

/-- Settles O42: the mask of a draw, whatever byte it is. -/
theorem randomIsMasked : Obligations.RandomIsMasked := by
  intro x kk s
  have hx : (maskedDraw s.drawRandom.1 x kk s.drawRandom.2).getV x = Config.rnd s.draws &&& kk :=
    State.getV_setV_self _ _ _
  refine ⟨_, rfl, hx, fun j hj => ?_, fun hkk => ?_, rfl, rfl,
    (((Keeps.refl _ s).drawRandom rfl).setV (List.mem_singleton_self x) _).advance⟩
  · rw [hx, BitVec.getLsbD_and, hj, Bool.and_false]
  · rw [hx, hkk]
    exact BitVec.and_zero

/-! ### The address register (42_index_memory.md R95, R96) -/

/-- Settles O44, by the effect of a write of I. -/
theorem indexArithmetic : Obligations.IndexArithmetic := by
  refine fun x s => ⟨?_, ?_⟩
  · obtain ⟨t, hexec, hi, hpc, hkeeps⟩ := index_write_effect (i := .addI x) (s := s) rfl
    refine ⟨t, hexec, ?_, hpc, hkeeps⟩
    rw [hi, BitVec.toNat_add, byteWord, BitVec.toNat_setWidth_of_le (by decide)]
  · obtain ⟨t, hexec, hi, hpc, hkeeps⟩ := index_write_effect (i := .ldF x) (s := s) rfl
    refine ⟨t, hexec, fun hm => ?_, fun hm => ?_, hpc, hkeeps⟩
    all_goals
      rw [hi, glyphAddress, glyphIndex, hm, BitVec.toNat_ofNat]
      exact Nat.mod_eq_of_lt (by dsimp only; omega)

/-! ### The memory transfers (42_index_memory.md R97 to R99; 20_memory.md R48, R56) -/

/-- A range inside memory passes the check. -/
theorem checked_of_inside {s body : State} {n : Nat} (h : s.i.toNat + n ≤ 0x1000) : s.checked s.base n body = body := by
  have hcheck : checkRange s.base n = none := checkRange_none.mpr (.inl h)
  rw [State.checked, hcheck]

theorem exec_ldB_of_inside {s : State} (h : s.i.toNat + 3 ≤ 0x1000) (x : Reg) :
    exec (.ldB x) s = .next (s.storeBytes s.base (bcdDigits (s.getV x))).advance :=
  congrArg _ (checked_of_inside h)

theorem exec_ldMemVx_of_inside {s : State} {x : Reg} (h : s.i.toNat + blockSize x ≤ 0x1000) :
    exec (.ldMemVx x) s = .next ((s.storeBytes s.base (s.regBlock x)).bumpIndex x).advance :=
  congrArg _ (checked_of_inside h)

theorem exec_ldVxMem_of_inside {s : State} {x : Reg} (h : s.i.toNat + blockSize x ≤ 0x1000) :
    exec (.ldVxMem x) s = .next ((s.loadBlock s.base (blockSize x)).bumpIndex x).advance :=
  congrArg _ (checked_of_inside h)

/-- A stored byte is read back at its address. -/
theorem byteAt_storeBytes_add (s : State) (a : Nat) {bs : List Byte} {k : Nat} (h : k < bs.length) :
    (s.storeBytes a bs).byteAt (a + k) = bs.getD k 0 := by
  rw [State.storeBytes_byteAt, if_pos (by omega), Nat.add_sub_cancel_left]

/-- Settles O45: each digit is read back at its address. -/
theorem bcdStore : Obligations.BcdStore := by
  intro x s h
  have hx := (s.getV x).isLt
  have hread : ∀ k, k < 3 → (s.storeBytes s.base (bcdDigits (s.getV x))).advance.byteAt (s.base + k) =
      (bcdDigits (s.getV x)).getD k 0 := fun k hk => byteAt_storeBytes_add s s.base hk
  have hdigit : ∀ d, d < 256 → (BitVec.ofNat 8 d).toNat = d := fun d hd => Nat.mod_eq_of_lt hd
  refine ⟨_, exec_ldB_of_inside (by omega) x, ?_, ?_, ?_, rfl, (keeps_bcdStore s _).advance⟩
  · exact (congrArg BitVec.toNat (hread 0 (by decide))).trans (hdigit _ (by omega))
  · exact (congrArg BitVec.toNat (hread 1 (by decide))).trans (hdigit _ (by omega))
  · exact (congrArg BitVec.toNat (hread 2 (by decide))).trans (hdigit _ (by omega))

/-- I after a block transfer (R98, R99). -/
theorem bumpIndex_toNat (s : State) (x : Reg) : (s.bumpIndex x).i.toNat =
    if s.config.qIndexIncrement = true then (s.i.toNat + x.toNat + 1) % 65536 else s.i.toNat := by
  rw [State.bumpIndex_i, blockSize]
  split
  · rw [BitVec.toNat_ofNat]; rfl
  · rfl

/-- V[r] is the byte stored at I + r. -/
theorem byteAt_storeBlock (s : State) {x r : Reg} (h : r.toNat ≤ x.toNat) :
    (s.storeBytes s.base (s.regBlock x)).byteAt (s.base + r.toNat) = s.getV r := by
  rw [byteAt_storeBytes_add s s.base (by rw [length_regBlock, blockSize]; omega), getD_regBlock s x r h]

/-- Settles O46, by the bytes of the register block and the frame of its store. -/
theorem blockStore : Obligations.BlockStore := by
  intro x s h
  refine ⟨_, exec_ldMemVx_of_inside (by rw [blockSize]; omega), fun r hr => ?_, ?_, ?_, (keeps_blockStore s x).advance⟩
  · rw [State.advance_byteAt, State.bumpIndex_byteAt, byteAt_storeBlock s hr]
  · rw [State.advance_i, bumpIndex_toNat]; rfl
  · rw [State.advance_pc, State.bumpIndex_pc, State.storeBytes_pc]

/-- Settles O47, by the registers of a block load and its frame. -/
theorem blockLoad : Obligations.BlockLoad := by
  intro x s h
  refine ⟨_, exec_ldVxMem_of_inside (by rw [blockSize]; omega), fun r hr => ?_, ?_, ?_, (keeps_blockLoad s x).advance⟩
  · rw [State.advance_getV, State.bumpIndex_getV, State.loadBlock_getV, if_pos (by rw [blockSize]; omega)]
  · rw [State.advance_i, bumpIndex_toNat]; rfl
  · rw [State.advance_pc, State.bumpIndex_pc, State.loadBlock_pc]

/-- Settles O48: the two bytes at PC + 2 are V0 and V1. -/
theorem storedCodeIsFetched : Obligations.StoredCodeIsFetched := by
  intro x s hx hi hin
  obtain ⟨t, hexec, hbytes, _, hpc, _⟩ := blockStore x s hin
  have hpc' : t.pc.toNat = s.base := by
    rw [hpc, State.base]
    bv_omega
  have hbase : s.base = s.i.toNat := rfl
  refine ⟨t, hexec, ?_⟩
  rw [fetchWord_of_le (by omega), hpc']
  have h0 := hbytes 0x0#4 (Nat.zero_le _)
  have h1 := hbytes 0x1#4 hx
  rw [← h0, ← h1]
  rfl

/-- The check raises at the lowest address of the range that is outside memory, and nowhere else. -/
theorem checked_outOfBounds {s : State} {n : Nat} (body : State) (hn : 1 ≤ n) (h : 0xFFF < s.i.toNat + n - 1) :
    ∃ addr, s.checked s.base n body = s.raise .outOfBoundsAccess none (some addr) none ∧
      s.i.toNat ≤ addr ∧ addr < s.i.toNat + n ∧ 0xFFF < addr ∧
      ∀ k, k < n → 0xFFF < s.i.toNat + k → addr ≤ s.i.toNat + k := by
  rcases s.checked_cases s.base n body with ⟨addr, hcheck, heq⟩ | ⟨hin, _⟩
  · obtain ⟨hle, hlt, hout, hlow⟩ := checkRange_some hcheck
    refine ⟨addr, heq, hle, hlt, hout, fun k _ hk => ?_⟩
    by_contra hgt
    have := hlow (s.i.toNat + k) (Nat.le_add_right _ _) (by omega)
    rw [memSize] at this
    omega
  · rw [checkRange_none, memSize, State.base] at hin
    omega

/-- Settles O49: each of the four is its checked transfer. -/
theorem transferOutOfBoundsRaises : Obligations.TransferOutOfBoundsRaises := by
  intro s i count hi hcount hout
  have hchecked : ∃ body, exec i s = .next (s.checked s.base count body) := by
    cases i
    case drw | ldB | ldMemVx | ldVxMem => subst hi; exact ⟨_, rfl⟩
    all_goals exact hi.elim
  obtain ⟨body, hexec⟩ := hchecked
  obtain ⟨addr, hraise, hrest⟩ := checked_outOfBounds body hcount hout
  exact ⟨addr, hexec.trans (congrArg _ hraise), hrest⟩

end Sys2Proof.Machine

/-! ## Timers, keypad and the host's operations -/

namespace Sys2Proof.Machine

/-! ### Timers (44_keypad_timers.md R113 to R116) -/

/-- Settles O20, by the effect of a register write and of a timer write. -/
theorem timerRegisterTransfers : Obligations.TimerRegisterTransfers := by
  refine fun x s => ⟨register_write_effect rfl, ?_, ?_⟩
  · exact ⟨_, rfl, rfl, rfl, ((Keeps.refl _ s).setDT rfl _).advance⟩
  · exact ⟨_, rfl, rfl, rfl, ((Keeps.refl _ s).setST rfl _).advance⟩

/-- A tick is its own changes of TDIV, DT and ST. -/
theorem tick_eq (s : State) : s.tick = { s with tdiv := s.tick.tdiv, dt := s.tick.dt, st := s.tick.st } := by
  rcases s.tick_cases with ⟨_, h⟩ | ⟨_, h⟩ <;> rw [h]

/-- Settles O19, by the two cases of a tick. -/
theorem tickChangesOnlyTimers : Obligations.TickChangesOnlyTimers := by
  intro s
  refine ⟨tick_eq s, ?_⟩
  rcases s.tick_cases with ⟨hd, h⟩ | ⟨hd, h⟩ <;> rw [h]
  · rw [if_pos hd]
    exact ⟨rfl, countDown_toNat _, countDown_toNat _⟩
  · rw [if_neg hd]
    exact ⟨rfl, rfl, rfl⟩

/-- The timers after `k` ticks from any TDIV below the divider: TDIV and the ticks make up the rounds. -/
theorem ticks_timers (k : Nat) (s : State) (h : s.tdiv < s.config.timerDivider) :
    (ticks k s).dt.toNat = s.dt.toNat - (s.tdiv + k) / s.config.timerDivider ∧
    (ticks k s).st.toNat = s.st.toNat - (s.tdiv + k) / s.config.timerDivider ∧
    (ticks k s).tdiv = (s.tdiv + k) % s.config.timerDivider := by
  induction k generalizing s with
  | zero => simp [ticks, Nat.div_eq_of_lt h, Nat.mod_eq_of_lt h]
  | succ k ih =>
    obtain ⟨hdt, hst, htdiv⟩ := ih s.tick (tick_divider h)
    rw [ticks, hdt, hst, htdiv, State.tick_config]
    have hpos : 0 < s.config.timerDivider := Nat.zero_lt_of_lt h
    rcases s.tick_cases with ⟨hd, he⟩ | ⟨_, he⟩ <;> rw [he]
    · have hround : s.tdiv + (k + 1) = k + s.config.timerDivider := by omega
      simp only [countDown_toNat, hround, Nat.add_div_right k hpos, Nat.add_mod_right, Nat.zero_add,
        Nat.sub_sub, Nat.add_comm 1, and_self]
    · have hcount : s.tdiv + 1 + k = s.tdiv + (k + 1) := by omega
      simp only [hcount, and_self]

/-- Settles O18: from TDIV = 0 the ticks are the rounds and their remainder. -/
theorem timersCountDownEveryNthTick : Obligations.TimersCountDownEveryNthTick := by
  intro k s hd h0
  have := ticks_timers k s (by omega)
  rwa [h0, Nat.zero_add] at this

/-! ### Keypad (44_keypad_timers.md R110 to R112, R118) -/

/-- Settles O21, by the two cases of a key skip and the common effect of the skips. -/
theorem keySkips : Obligations.KeySkips := by
  intro x s
  have hskip : ∀ want, (s.getV x).toNat ≤ 15 →
      s.keySkip x want = s.skipIf (s.keyDown ((s.getV x).setWidth 4) == want) := fun want h =>
    (s.keySkip_cases x want).elim (fun hout => absurd hout.1 (by omega)) (·.2)
  have hraise : ∀ want, 15 < (s.getV x).toNat →
      s.keySkip x want = s.raise .keyIndexOutOfRange none none (some (s.getV x)) := fun want h =>
    (s.keySkip_cases x want).elim (·.2) (fun hin => absurd hin.1 (by omega))
  refine ⟨fun h => ⟨?_, ?_⟩, fun h => ⟨congrArg _ (hraise true h), congrArg _ (hraise false h)⟩⟩
  · exact skip_pc_and_frame (congrArg _ (hskip true h)) beq_iff_eq
  · exact skip_pc_and_frame (congrArg _ (hskip false h)) beq_iff_eq

/-- Settles O22, by the frame of the latch. -/
theorem keyWaitLatches : Obligations.KeyWaitLatches :=
  fun x s => ⟨_, rfl, rfl, rfl, rfl, ((Keeps.refl _ s).latchKeyWait rfl x).advance⟩

/-- Settles O23, by the two cases of a key event. -/
theorem keyEventEffect : Obligations.KeyEventEffect := by
  intro s k pressed
  rcases s.handleKeyEvent_cases k pressed with ⟨hh, hp, hk, he⟩ | ⟨hn, he⟩ <;> rw [he]
  · rw [if_pos ⟨hh, hp, hk⟩]
    exact ⟨fun j => s.setKey_keyDown k j pressed, ⟨rfl, fun r => State.getV_setV _ _ _ _⟩, rfl⟩
  · rw [if_neg hn]
    exact ⟨fun j => s.setKey_keyDown k j pressed, ⟨rfl, rfl⟩, rfl⟩

/-- A press of a held key ends no wait. -/
theorem handleKeyEvent_of_held {s : State} {k : Key} (h : s.keyDown k = true) :
    s.handleKeyEvent k true = s.setKey k true := by
  rcases s.handleKeyEvent_cases k true with ⟨_, _, hk, _⟩ | ⟨_, he⟩
  · rw [h] at hk; contradiction
  · exact he

/-- A press of a released key ends the wait. -/
theorem handleKeyEvent_of_released {s : State} {k : Key} (hh : s.halt = true) (h : s.keyDown k = false) :
    s.handleKeyEvent k true = (s.setKey k true).resolveKeyWait k := by
  rcases s.handleKeyEvent_cases k true with ⟨_, _, _, he⟩ | ⟨hn, _⟩
  · exact he
  · exact absurd ⟨hh, rfl, h⟩ hn

/-- The step that runs LD Vx, K latches the wait and ends with its tick. -/
theorem step_of_ldVxK {s : State} {x : Reg} (hf : s.fault = none) (hh : s.halt = false)
    (hw : s.fetchWord = .ok (encode (.ldVxK x))) : step s = .next (s.latchKeyWait x).advance.tick := by
  have hlatched : (s.latchKeyWait x).advance.fault = none := hf
  rw [step_of_instr hf hh hw (decode_encode trivial)]
  exact congrArg Host.Outcome.next (State.endStep_running hlatched)

/-- Settles O24, by the step that latches and the two presses. -/
theorem keyWaitEndsOnKeyDown : Obligations.KeyWaitEndsOnKeyDown := by
  intro s x k hf hh hw
  refine ⟨_, step_of_ldVxK hf hh hw, ?_⟩
  generalize ht : (s.latchKeyWait x).advance.tick = t
  have hfault : t.fault = none := by simp [← ht, hf]
  have hhalt : t.halt = true := by simp [← ht]
  have hreg : t.haltReg = x := by simp [← ht]
  have hpc : t.pc = s.pc + 2#16 := by simp [← ht]
  have hv : t.getV x = s.getV x := by simp [← ht]
  have htdiv : t.tdiv = s.tick.tdiv := by rw [← ht, State.tick_tdiv, State.tick_tdiv]; rfl
  have hdt : t.dt = s.tick.dt := by rw [← ht, State.tick_dt, State.tick_dt]; rfl
  have hkey : t.keyDown k = s.keyDown k := by simp [← ht, State.keyDown]
  refine ⟨hhalt, hpc, htdiv, hdt, step_of_halt hfault hhalt, fun hk => ?_, fun hk => ?_⟩
  · rw [handleKeyEvent_of_held (hkey.trans hk)]
    exact ⟨hhalt, hv⟩
  · rw [handleKeyEvent_of_released hhalt (hkey.trans hk)]
    refine ⟨rfl, ?_, hpc, ?_⟩
    · rw [← hreg]
      exact State.getV_setV_self _ _ _
    · simp [State.running, State.faulted, State.resolveKeyWait, hfault]

/-! ### Render and the idle loop (60_exceptions.md R133; 70_reset_and_hazards.md R140) -/

/-- Settles O25, by the two cases of render. -/
theorem renderConsumesDirty : Obligations.RenderConsumesDirty := by
  intro s
  have hpixel : ∀ (x : Fin 64) (y : Fin 32), s.getPixel x y = s.fb[y][x] := fun x y => by
    simp [State.getPixel, Framebuffer.pixel]
  have hbuzzer : s.buzzer = true ↔ s.st ≠ 0 := by simp [State.buzzer]
  rcases s.render_cases with ⟨hd, he⟩ | ⟨hd, he⟩ <;> rw [he]
  · exact ⟨by rw [if_pos hd], rfl, rfl, hbuzzer, hpixel⟩
  · refine ⟨by rw [hd]; rfl, ?_, by rw [he], hbuzzer, hpixel⟩
    rw [← hd]

theorem idle_iff (s : State) : s.idle = true ↔
    ∃ w, s.fetchWord = .ok w ∧ opField w = 0x1#4 ∧ addrWord (nnnField w) = s.pc := by
  unfold State.idle
  cases s.fetchWord with
  | ok w => simp
  | error a => simp

/-- Only PC and MEM make a machine idle. -/
theorem idle_tick (s : State) : s.tick.idle = s.idle := by
  unfold State.idle State.fetchWord
  simp only [State.tick_pc, State.tick_byteAt]

/-- Settles O26: the jump to itself changes nothing, so that the step is its tick. -/
theorem idleStepOnlyTicks : Obligations.IdleStepOnlyTicks := by
  intro s hf hh hidle
  obtain ⟨w, hw, hop, hpc⟩ := (idle_iff s).mp hidle
  have hd : decode w = .ok (.jp (nnnField w)) := by
    unfold decode
    rw [hop]
    rfl
  have hexec : exec (.jp (nnnField w)) s = .next s := by
    show Host.Outcome.next (s.setPc (addrWord (nnnField w))) = _
    rw [hpc]
    rfl
  refine ⟨s.tick, ?_, ?_, tick_eq s⟩
  · rw [step_of_instr hf hh hw hd, hexec, endResult_next, State.endStep_running hf]
  · rw [idle_tick, hidle]

end Sys2Proof.Machine

/-! ## Reset and boot (70_reset_and_hazards.md R135 to R138) -/

namespace Sys2Proof.Machine

theorem bootWith_of_le (c : Config) (d : Nat) {image : List Byte} (h : image.length ≤ maxImage) :
    bootWith c d image = .next (bootState c d image) :=
  if_neg (Nat.not_lt.mpr h)

/-- Every byte that boot leaves with no image and the default parameters is what an unlisted address reads as, so that
nothing is listed. -/
theorem bootMemory_default : bootMemory defaultConfig [] = [] := by
  refine Memory.writeBytes_blank 0 _ fun k _ => ?_
  rw [getD_bootBytes _ (Nat.zero_le _), Nat.zero_add, blankByte, defaultConfig_font]
  split
  · rfl
  · have hout : fontTable.getD k 0x00#8 = 0x00#8 := by
      rw [List.getD_eq_default]
      rw [length_fontTable]
      omega
    rw [hout]
    simp [defaultConfig]

/-- Settles O15: boot with no image lists no byte, and the rest of the reset state is read off. -/
theorem resetIsTheBootState : Obligations.ResetIsTheBootState := by
  refine ⟨?_, rfl, fun a _ => rfl, fun a ha => ?_, fun r => ?_, rfl, rfl, fun j => ?_, rfl, rfl, rfl, rfl, rfl,
    fun x y => pixel_blankScreen x y, rfl, fun k => ?_, rfl⟩
  · rw [bootWith_of_le _ _ (Nat.zero_le _), bootState, bootMemory_default]
    rfl
  · exact List.getD_eq_default _ _ (by rwa [length_fontTable])
  · simp [State.getV, State.reset]
  · simp [State.reset]
  · simp [State.keyDown, State.reset]

/-- Settles O16, by the bytes that boot writes. -/
theorem bootLoadsTheImage : Obligations.BootLoadsTheImage := by
  intro s image h
  have hbyte : ∀ a, a < 4096 → (bootState s.config s.draws image).byteAt a =
      if a < 80 then s.config.font.toList.getD a 0
      else if a < 0x200 then s.config.memFill
      else if a < 0x200 + image.length then image.getD (a - 0x200) 0
      else if a < 4096 then s.config.memFill else 0 :=
    fun a ha => (bootState_byteAt _ _ h a ha).trans (getD_bootBytes _ h a)
  refine ⟨_, bootWith_of_le _ _ h, fun a ha => ?_, fun a h1 h2 => ?_, fun k hk => ?_, fun a h1 h2 => ?_,
    fetchWord_of_le (by rw [bootState_pc]; decide), rfl⟩
  · rw [hbyte a (by omega), if_pos ha, getD_font _ ha]
  · rw [hbyte a (by omega), if_neg (by omega), if_pos h2]
  · rw [hbyte _ (by omega), if_neg (by omega), if_neg (by omega), if_pos (by omega), Nat.add_sub_cancel_left]
  · rw [hbyte a h2, if_neg (by omega), if_neg (by omega), if_neg (by omega), if_pos h2]

/-- Settles O17, by cases on the operation. -/
theorem bootRejectsALargeImage : Obligations.BootRejectsALargeImage := by
  refine ⟨fun s image h => ?_, fun c op hop => ?_⟩
  · exact if_pos h
  · cases op with
    | boot image => exact absurd rfl (hop image)
    | step => rfl
    | keyEvent _ _ => rfl
    | render => rfl

end Sys2Proof.Machine

/-! ## DRW: completion, clipping, wrapping, and drawing twice (43_display.md R101 to R109) -/

namespace Sys2Proof.Machine

/-- With n = 0 nothing is drawn (R106). -/
theorem drawSprite_zero (s : State) (x y : Reg) : s.drawSprite x y 0 = { fb := s.fb, hit := false } := rfl

/-- Settles O51: VF is the collision, and the sprite of no rows draws nothing. -/
theorem drawCompletes : Obligations.DrawCompletes := by
  intro x y n s hmem
  have hflag : ((s.setDisplay (s.drawSprite x y n).fb).setFlag (s.drawSprite x y n).hit).advance.getV Reg.flag =
      if (s.drawSprite x y n).hit then 1 else 0 := by
    rw [State.advance_getV, State.getV_setFlag, if_pos rfl]
    rfl
  refine ⟨_, exec_drw_of_inside hmem x y, rfl, ?_, fun hn => ?_, rfl, (keeps_draw s _ _).advance⟩
  · rw [hflag]
    cases (s.drawSprite x y n).hit <;> simp
  · subst hn
    exact ⟨rfl, hflag⟩

/-- The positions drawn at, in the 1-bits of the rows (R101, R102). -/
theorem mem_spriteMarks (s : State) (x y : Reg) (n : Nibble) (p : Nat × Nat) :
    p ∈ s.spriteMarks x y n ↔ ∃ r c, bitSet (s.spriteRows n) r c = true ∧
      drawPosition s.config.qDrawWrap ((s.getV x).toNat + c) ((s.getV y).toNat + r) = p :=
  mem_marks _ _ _ _ _

/-- A clipped sprite covers the positions it draws at (R104). -/
theorem covers_iff (rows : List Byte) (ox oy X Y : Nat) : covers rows ox oy X Y = true ↔
    ∃ r c, bitSet rows r c = true ∧ (ox + c, oy + r) = (X, Y) := by
  unfold covers
  simp only [Bool.and_eq_true, decide_eq_true_eq, Prod.mk.injEq]
  constructor
  · rintro ⟨⟨hX, hY⟩, hbit⟩
    exact ⟨Y - oy, X - ox, hbit, by omega, by omega⟩
  · rintro ⟨r, c, hbit, rfl, rfl⟩
    simpa using hbit

/-- Settles O53: clipped, no position is reduced. -/
theorem clippedDrawTogglesAndCollides : Obligations.ClippedDrawTogglesAndCollides := by
  intro x y n s hq hmem
  obtain ⟨t, hexec, hpixel, hflag⟩ := drw_effect hmem x y
  refine ⟨t, hexec, fun X Y hX hY => ?_, hflag.trans ?_, length_spriteRows s n, fun r => getD_spriteRows s n⟩
  · rw [hpixel X Y hX hY]
    congr 1
    rw [Bool.eq_iff_iff, decide_eq_true_iff, mem_spriteMarks, covers_iff, hq]
    rfl
  · simp only [mem_spriteMarks, hq, drawPosition_clipped, Collides]
    constructor
    · rintro ⟨p, ⟨r, c, hbit, rfl⟩, hhit⟩
      exact ⟨r, c, hbit, hhit⟩
    · rintro ⟨r, c, hbit, hhit⟩
      exact ⟨_, ⟨r, c, hbit, rfl⟩, hhit⟩

/-- A pixel is inverted exactly if its condition holds. -/
theorem xor_decide_ne_iff (a : Bool) (P : Prop) [Decidable P] : (a ^^ decide P) ≠ a ↔ P := by
  cases a <;> simp

/-- Settles O54: wrapped, every position is on the grid. -/
theorem wrappedDrawTogglesAndCollides : Obligations.WrappedDrawTogglesAndCollides := by
  intro x y n s hq hmem
  obtain ⟨t, hexec, hpixel, hflag⟩ := drw_effect hmem x y
  refine ⟨t, hexec, fun X Y hX hY => ?_, hflag.trans ?_⟩
  · rw [hpixel X Y hX hY, xor_decide_ne_iff, mem_spriteMarks, hq]
    simp only [drawPosition_wrapped, Prod.mk.injEq]
  · simp only [mem_spriteMarks, hq, drawPosition_wrapped]
    constructor
    · rintro ⟨p, ⟨r, c, hbit, rfl⟩, hhit⟩
      exact ⟨r, c, hbit, (hhit.resolve_left (by omega)).resolve_left (by omega)⟩
    · rintro ⟨r, c, hbit, hset⟩
      exact ⟨_, ⟨r, c, hbit, rfl⟩, .inr (.inr hset)⟩

/-- After a draw, with VF given `b`, a sprite whose origin is as before is drawn at the same positions: the rows, the
parameters and every register but VF are as before. -/
theorem spriteMarks_redraw {s : State} {x y : Reg} {b : Byte} (hb : x = Reg.flag ∨ y = Reg.flag → b = s.getV Reg.flag)
    (n : Nibble) (fb : Framebuffer) (hit : Bool) :
    (((s.setDisplay fb).setFlag hit).advance.setV Reg.flag b).spriteMarks x y n = s.spriteMarks x y n := by
  have horigin : ∀ r, (r = Reg.flag → b = s.getV Reg.flag) →
      (((s.setDisplay fb).setFlag hit).advance.setV Reg.flag b).getV r = s.getV r := by
    intro r hr
    rw [State.getV_setV]
    split
    · next heq => rw [hr heq, heq]
    · next hne => rw [State.advance_getV, State.getV_setFlag, if_neg hne, State.setDisplay_getV]
  unfold State.spriteMarks
  rw [horigin x fun hx => hb (.inl hx), horigin y fun hy => hb (.inr hy)]
  rfl

/-- Settles O55: the second draw inverts the same pixels again; and the position of a 1-bit is off the grid in both draws,
or its pixel is set before one of them. -/
theorem drawingTwiceRestores : Obligations.DrawingTwiceRestores := by
  intro x y n s b hb hmem
  obtain ⟨t, hexec, hpixel, hflag⟩ := drw_effect hmem x y
  obtain rfl : _ = t := Host.Outcome.next.inj ((exec_drw_of_inside hmem x y).symm.trans hexec)
  have hmarks := spriteMarks_redraw hb n (s.drawSprite x y n).fb (s.drawSprite x y n).hit
  have hi : ((s.setDisplay (s.drawSprite x y n).fb).setFlag (s.drawSprite x y n).hit).advance.i = s.i := rfl
  generalize ((s.setDisplay (s.drawSprite x y n).fb).setFlag (s.drawSprite x y n).hit).advance = t at *
  obtain ⟨u, hexec', hpixel', hflag'⟩ := drw_effect (s := t.setV Reg.flag b) (by rwa [State.setV_i, hi]) x y
  rw [hmarks] at hpixel' hflag'
  refine ⟨t, u, hexec, hexec', Framebuffer.ext_pixel fun X Y hX hY => ?_, ?_⟩
  · rw [hpixel' X Y hX hY, State.setV_fb, hpixel X Y hX hY, Bool.xor_assoc, Bool.xor_self, Bool.xor_false]
  · rintro ⟨r, c, hbit⟩
    rw [hflag, hflag']
    have hp := (mem_spriteMarks s x y n _).mpr ⟨r, c, hbit, rfl⟩
    generalize drawPosition _ _ _ = p at hp
    by_cases hoff : 64 ≤ p.1 ∨ 32 ≤ p.2
    · exact .inl ⟨p, hp, by tauto⟩
    · have hset : (t.fb.pixel p.1 p.2) = !s.fb.pixel p.1 p.2 := by
        rw [hpixel _ _ (by omega) (by omega), decide_eq_true hp, Bool.xor_true]
      cases hs : s.fb.pixel p.1 p.2 with
      | true => exact .inl ⟨p, hp, .inr (.inr hs)⟩
      | false => exact .inr ⟨p, hp, .inr (.inr (hset.trans (by rw [hs]; rfl)))⟩

end Sys2Proof.Machine
